-- ==== Sys2Proof/Word.lean ====
section
/-!
DEFINITION. The word types of the CORE (spec/00_scope.md R7, R9; spec/10_state.md R20 to R25).
-/

namespace Sys2Proof

/-- A byte: D, T, a memory byte, an opcode byte, a port's data (R22, R28, R60). -/
abbrev Byte := BitVec 8

/-- A 16-bit word: a scratch register, an address (R20, R50). -/
abbrev Word := BitVec 16

/-- A scratch register's number, the width of P and X (R24, R25). -/
abbrev RegNum := BitVec 4

/-- A port's number as an opcode holds it, 1 to 7 (R96); 0 is the pseudo-port of Q (R281). -/
abbrev Port := BitVec 3

/-- A key of the 16-key matrix (R35, R324). -/
abbrev Key := BitVec 4

end Sys2Proof
end

