-- ==== Sys2Proof/Syntax.lean ====
section
/-!
DEFINITION. The instructions: one constructor per row of spec/opcode_table.json
(spec/30_encoding.md R92, R97), with the operands its encoding holds.
-/

namespace Sys2Proof

/-- The instructions of the CORE (R97). An operand byte of an immediate or a short branch is a
`Byte`, the target of a long branch a `Word` (R93, R94). -/
inductive Instr where
  -- memory reference (40_memory_reference.md)
  | ldn (n : RegNum)
  | lda (n : RegNum)
  | ldx
  | ldxa
  | ldi (imm : Byte)
  | str (n : RegNum)
  | stxd
  -- register operations (41_register_operations.md)
  | inc (n : RegNum)
  | dec (n : RegNum)
  | irx
  | glo (n : RegNum)
  | ghi (n : RegNum)
  | plo (n : RegNum)
  | phi (n : RegNum)
  -- logic and shifts (42_logic.md)
  | or
  | ori (imm : Byte)
  | xor
  | xri (imm : Byte)
  | and
  | ani (imm : Byte)
  | shr
  | shrc
  | shl
  | shlc
  -- arithmetic (43_arithmetic.md)
  | add
  | adi (imm : Byte)
  | adc
  | adci (imm : Byte)
  | sd
  | sdi (imm : Byte)
  | sdb
  | sdbi (imm : Byte)
  | sm
  | smi (imm : Byte)
  | smb
  | smbi (imm : Byte)
  -- branches and skips (44_branch.md)
  | br (a : Byte)
  | bq (a : Byte)
  | bz (a : Byte)
  | bdf (a : Byte)
  | b1 (a : Byte)
  | b2 (a : Byte)
  | b3 (a : Byte)
  | b4 (a : Byte)
  | skp
  | bnq (a : Byte)
  | bnz (a : Byte)
  | bnf (a : Byte)
  | bn1 (a : Byte)
  | bn2 (a : Byte)
  | bn3 (a : Byte)
  | bn4 (a : Byte)
  | lbr (target : Word)
  | lbq (target : Word)
  | lbz (target : Word)
  | lbdf (target : Word)
  | nop
  | lsnq
  | lsnz
  | lsnf
  | lskp
  | lbnq (target : Word)
  | lbnz (target : Word)
  | lbnf (target : Word)
  | lsie
  | lsq
  | lsz
  | lsdf
  -- control (45_control.md)
  | idl
  | sep (n : RegNum)
  | sex (n : RegNum)
  | seq
  | req
  | sav
  | mark
  | ret
  | dis
  | unassigned68
  -- input and output (46_io.md)
  | out (port : Port)
  | inp (port : Port)
deriving DecidableEq, Repr

end Sys2Proof
end

