-- ==== Sys2Proof/WellFormed.lean ====
section
/-!
DEFINITION. Which terms of `Instr` are instructions: the operand constraints of
spec/opcode_table.json (spec/30_encoding.md R92, R98).
-/

namespace Sys2Proof

/-- The operand constraints: LDN has a register 1 to 15 (byte 0x00 is IDL), OUT and INP a port 1 to 7
(0x60 is IRX, 0x68 is unassigned). Every other operand may hold every value of its width. -/
def Instr.WellFormed : Instr → Bool
  | .ldn n => n != 0
  | .out port => port != 0
  | .inp port => port != 0
  | .lda _ | .ldx | .ldxa | .ldi _ | .str _ | .stxd | .inc _ | .dec _ | .irx | .glo _ | .ghi _
  | .plo _ | .phi _ | .or | .ori _ | .xor | .xri _ | .and | .ani _ | .shr | .shrc | .shl | .shlc
  | .add | .adi _ | .adc | .adci _ | .sd | .sdi _ | .sdb | .sdbi _ | .sm | .smi _ | .smb | .smbi _
  | .br _ | .bq _ | .bz _ | .bdf _ | .b1 _ | .b2 _ | .b3 _ | .b4 _ | .skp | .bnq _ | .bnz _
  | .bnf _ | .bn1 _ | .bn2 _ | .bn3 _ | .bn4 _ | .lbr _ | .lbq _ | .lbz _ | .lbdf _ | .nop | .lsnq
  | .lsnz | .lsnf | .lskp | .lbnq _ | .lbnz _ | .lbnf _ | .lsie | .lsq | .lsz | .lsdf | .idl
  | .sep _ | .sex _ | .seq | .req | .sav | .mark | .ret | .dis | .unassigned68 => true

end Sys2Proof
end

