-- ==== Sys2Proof/Decode.lean ====
section
/-!
DEFINITION. Decoding and encoding (spec/30_encoding.md R90 to R98, R108). The decoder is total on
all opcode bytes (R98); it refuses only a byte list that ends inside an instruction, by name.
-/

namespace Sys2Proof

/-- The high byte of a word, `v[15:8]` (R10). -/
def hiByte (w : Word) : Byte := w.extractLsb' 8 8

/-- The low byte of a word, `v[7:0]` (R10). -/
def loByte (w : Word) : Byte := w.extractLsb' 0 8

/-- `hi : lo` of two bytes (R9). -/
def joinBytes (hi lo : Byte) : Word := hi ++ lo

/-- The instruction group `I = op[7:4]` (R91). -/
def groupOf (op : Byte) : BitVec 4 := op.extractLsb' 4 4

/-- The field `N = op[3:0]` (R91). -/
def fieldOf (op : Byte) : BitVec 4 := op.extractLsb' 0 4

/-- The port of an I/O instruction, `op[2:0]` (R96). -/
def portOf (op : Byte) : Port := op.extractLsb' 0 3

/-- Why a list of bytes holds no whole instruction. -/
inductive DecodeError where
  /-- There is no byte at all. -/
  | noBytes
  /-- The list ends before the operand bytes of this opcode. -/
  | truncated (opcode : Byte)
deriving DecidableEq, Repr

/-- An instruction's length in bytes, from the opcode byte alone (R90, R97, R108). -/
def opcodeLength (op : Byte) : Nat :=
  match (groupOf op).toNat, (fieldOf op).toNat with
  | 0x3, 0x8 => 1
  | 0x3, _ => 2
  | 0x7, 0xC => 2
  | 0x7, 0xD => 2
  | 0x7, 0xF => 2
  | 0xC, 0x0 => 3
  | 0xC, 0x1 => 3
  | 0xC, 0x2 => 3
  | 0xC, 0x3 => 3
  | 0xC, 0x9 => 3
  | 0xC, 0xA => 3
  | 0xC, 0xB => 3
  | 0xF, 0x8 => 2
  | 0xF, 0x9 => 2
  | 0xF, 0xA => 2
  | 0xF, 0xB => 2
  | 0xF, 0xC => 2
  | 0xF, 0xD => 2
  | 0xF, 0xF => 2
  | _, _ => 1

/-- Group 0x3: short branches and SKP (R97), with the operand byte `a`. -/
def decodeGroup3 (n : BitVec 4) (a : Byte) : Instr :=
  match n.toNat with
  | 0x0 => .br a
  | 0x1 => .bq a
  | 0x2 => .bz a
  | 0x3 => .bdf a
  | 0x4 => .b1 a
  | 0x5 => .b2 a
  | 0x6 => .b3 a
  | 0x7 => .b4 a
  | 0x8 => .skp
  | 0x9 => .bnq a
  | 0xA => .bnz a
  | 0xB => .bnf a
  | 0xC => .bn1 a
  | 0xD => .bn2 a
  | 0xE => .bn3 a
  | _ => .bn4 a          -- 0xF

/-- Group 0x6: IRX, OUT, the unassigned byte, INP (R97, R98). -/
def decodeGroup6 (op : Byte) : Instr :=
  if fieldOf op = 0x0 then .irx
  else if fieldOf op = 0x8 then .unassigned68
  else if (fieldOf op).toNat < 0x8 then .out (portOf op)
  else .inp (portOf op)

/-- Group 0x7 (R97), with the immediate byte `imm`. -/
def decodeGroup7 (n : BitVec 4) (imm : Byte) : Instr :=
  match n.toNat with
  | 0x0 => .ret
  | 0x1 => .dis
  | 0x2 => .ldxa
  | 0x3 => .stxd
  | 0x4 => .adc
  | 0x5 => .sdb
  | 0x6 => .shrc
  | 0x7 => .smb
  | 0x8 => .sav
  | 0x9 => .mark
  | 0xA => .req
  | 0xB => .seq
  | 0xC => .adci imm
  | 0xD => .sdbi imm
  | 0xE => .shlc
  | _ => .smbi imm       -- 0xF

/-- Group 0xC: long branches, long skips and NOP (R97), with the target `t`. -/
def decodeGroupC (n : BitVec 4) (t : Word) : Instr :=
  match n.toNat with
  | 0x0 => .lbr t
  | 0x1 => .lbq t
  | 0x2 => .lbz t
  | 0x3 => .lbdf t
  | 0x4 => .nop
  | 0x5 => .lsnq
  | 0x6 => .lsnz
  | 0x7 => .lsnf
  | 0x8 => .lskp
  | 0x9 => .lbnq t
  | 0xA => .lbnz t
  | 0xB => .lbnf t
  | 0xC => .lsie
  | 0xD => .lsq
  | 0xE => .lsz
  | _ => .lsdf           -- 0xF

/-- Group 0xF (R97), with the immediate byte `imm`. -/
def decodeGroupF (n : BitVec 4) (imm : Byte) : Instr :=
  match n.toNat with
  | 0x0 => .ldx
  | 0x1 => .or
  | 0x2 => .and
  | 0x3 => .xor
  | 0x4 => .add
  | 0x5 => .sd
  | 0x6 => .shr
  | 0x7 => .sm
  | 0x8 => .ldi imm
  | 0x9 => .ori imm
  | 0xA => .ani imm
  | 0xB => .xri imm
  | 0xC => .adi imm
  | 0xD => .sdi imm
  | 0xE => .shl
  | _ => .smi imm        -- 0xF

/-- The instruction of an opcode byte and the two bytes after it (R97). An instruction of one or two
bytes does not look at the bytes that are not its own. A long branch's target has its high byte
first (R94). -/
def decodeOp (op b1 b2 : Byte) : Instr :=
  match (groupOf op).toNat with
  | 0x0 => if fieldOf op = 0 then .idl else .ldn (fieldOf op)
  | 0x1 => .inc (fieldOf op)
  | 0x2 => .dec (fieldOf op)
  | 0x3 => decodeGroup3 (fieldOf op) b1
  | 0x4 => .lda (fieldOf op)
  | 0x5 => .str (fieldOf op)
  | 0x6 => decodeGroup6 op
  | 0x7 => decodeGroup7 (fieldOf op) b1
  | 0x8 => .glo (fieldOf op)
  | 0x9 => .ghi (fieldOf op)
  | 0xA => .plo (fieldOf op)
  | 0xB => .phi (fieldOf op)
  | 0xC => decodeGroupC (fieldOf op) (joinBytes b1 b2)
  | 0xD => .sep (fieldOf op)
  | 0xE => .sex (fieldOf op)
  | _ => decodeGroupF (fieldOf op) b1     -- 0xF

/-- Reads one instruction from a list of bytes, lowest address first, and gives the bytes after
it (R90). -/
def decode : List Byte → Except DecodeError (Instr × List Byte)
  | [] => .error .noBytes
  | op :: rest =>
    match opcodeLength op, rest with
    | 1, _ => .ok (decodeOp op 0 0, rest)
    | 2, b1 :: rest' => .ok (decodeOp op b1 0, rest')
    | 3, b1 :: b2 :: rest' => .ok (decodeOp op b1 b2, rest')
    | _, _ => .error (.truncated op)

/-- The opcode byte `I:N` (R91, R92). -/
def opByte (group field : BitVec 4) : Byte := group ++ field

/-- The bytes of an instruction (R92, R97), lowest address first. -/
def encode : Instr → List Byte
  | .idl => [0x00]
  | .ldn n => [opByte 0x0 n]
  | .inc n => [opByte 0x1 n]
  | .dec n => [opByte 0x2 n]
  | .br a => [0x30, a]
  | .bq a => [0x31, a]
  | .bz a => [0x32, a]
  | .bdf a => [0x33, a]
  | .b1 a => [0x34, a]
  | .b2 a => [0x35, a]
  | .b3 a => [0x36, a]
  | .b4 a => [0x37, a]
  | .skp => [0x38]
  | .bnq a => [0x39, a]
  | .bnz a => [0x3A, a]
  | .bnf a => [0x3B, a]
  | .bn1 a => [0x3C, a]
  | .bn2 a => [0x3D, a]
  | .bn3 a => [0x3E, a]
  | .bn4 a => [0x3F, a]
  | .lda n => [opByte 0x4 n]
  | .str n => [opByte 0x5 n]
  | .irx => [0x60]
  | .out port => [(0b01100#5 ++ port : Byte)]
  | .unassigned68 => [0x68]
  | .inp port => [(0b01101#5 ++ port : Byte)]
  | .ret => [0x70]
  | .dis => [0x71]
  | .ldxa => [0x72]
  | .stxd => [0x73]
  | .adc => [0x74]
  | .sdb => [0x75]
  | .shrc => [0x76]
  | .smb => [0x77]
  | .sav => [0x78]
  | .mark => [0x79]
  | .req => [0x7A]
  | .seq => [0x7B]
  | .adci imm => [0x7C, imm]
  | .sdbi imm => [0x7D, imm]
  | .shlc => [0x7E]
  | .smbi imm => [0x7F, imm]
  | .glo n => [opByte 0x8 n]
  | .ghi n => [opByte 0x9 n]
  | .plo n => [opByte 0xA n]
  | .phi n => [opByte 0xB n]
  | .lbr t => [0xC0, hiByte t, loByte t]
  | .lbq t => [0xC1, hiByte t, loByte t]
  | .lbz t => [0xC2, hiByte t, loByte t]
  | .lbdf t => [0xC3, hiByte t, loByte t]
  | .nop => [0xC4]
  | .lsnq => [0xC5]
  | .lsnz => [0xC6]
  | .lsnf => [0xC7]
  | .lskp => [0xC8]
  | .lbnq t => [0xC9, hiByte t, loByte t]
  | .lbnz t => [0xCA, hiByte t, loByte t]
  | .lbnf t => [0xCB, hiByte t, loByte t]
  | .lsie => [0xCC]
  | .lsq => [0xCD]
  | .lsz => [0xCE]
  | .lsdf => [0xCF]
  | .sep n => [opByte 0xD n]
  | .sex n => [opByte 0xE n]
  | .ldx => [0xF0]
  | .or => [0xF1]
  | .and => [0xF2]
  | .xor => [0xF3]
  | .add => [0xF4]
  | .sd => [0xF5]
  | .shr => [0xF6]
  | .sm => [0xF7]
  | .ldi imm => [0xF8, imm]
  | .ori imm => [0xF9, imm]
  | .ani imm => [0xFA, imm]
  | .xri imm => [0xFB, imm]
  | .adi imm => [0xFC, imm]
  | .sdi imm => [0xFD, imm]
  | .shl => [0xFE]
  | .smi imm => [0xFF, imm]

/-- The longest instruction, in bytes (R90). -/
def maxLength : Nat := 3

/-- The `count` bytes of the number `w`, bit 0 being the lowest bit of the first byte. -/
def bytesOfNat (w : Nat) : Nat → List Byte
  | 0 => []
  | count + 1 => BitVec.ofNat 8 w :: bytesOfNat (w / 256) count

/-- The instruction the decoder reads from the `nbits` bits `w`, every bit above them 0. -/
def decodeTableWord (nbits w : Nat) : Option Instr :=
  match decode (bytesOfNat (w % 2 ^ nbits) maxLength) with
  | .ok (i, _) => some i
  | .error _ => none

end Sys2Proof
end

