-- ==== Sys2Proof/Config.lean ====
section
/-!
DEFINITION. What is fixed for one instance of the CORE (spec/00_scope.md R7), the commands of the
Hardware Host (spec/60_exceptions.md R340) and the one free value of the model, the host's answers.
-/

namespace Sys2Proof

/-- The three hardware variants (R2). -/
inductive Variant where
  | a
  | b
  | c
deriving DecidableEq, Repr

/-- The parameters of an instance (R7). The sizes of the read-only images are the images' lengths. -/
structure Config where
  /-- `VARIANT`. -/
  variant : Variant
  /-- `RAM_SIZE`, the size of the bound RAM buffer. -/
  ramSize : Nat
  /-- `BULK_BUDGET`. -/
  bulkBudget : Nat
  /-- `ROM_A_BASE`. -/
  romABase : Nat
  /-- `ROM_A_IMAGE`; `ROM_A_SIZE` is its length. -/
  romAImage : List Byte
  /-- `ROM_C_IMAGE`; `ROM_C_SIZE` is its length. -/
  romCImage : List Byte
  /-- `SCREEN_PAGE_OFFSET` of Variant C, taken modulo 256 (R322). -/
  pageOffsetC : Byte
  /-- `PRELOAD_D`. -/
  preloadD : Byte
  /-- `PRELOAD_P`. -/
  preloadP : RegNum
  /-- `PRELOAD_X`. -/
  preloadX : RegNum
  /-- `PRELOAD_R2`. -/
  preloadR2 : Word
  /-- `EF3_PATCH_PC`. -/
  ef3PatchPc : Word
  /-- `EF3_PATCH_LATCH`. -/
  ef3PatchLatch : Byte
  /-- `EF3_PATCH_VALUE`. -/
  ef3PatchValue : Bool
deriving DecidableEq, Repr

/-- DESIGN CHOICE, unsafe (log entry 1): the instance of `State.reset`. It is the default
configuration of spec/95_test_vectors.md (Variant B, RAM_SIZE = 4096, BULK_BUDGET = 1000); the
parameters that Variant B does not read are empty or zero. -/
def Config.reference : Config where
  variant := .b
  ramSize := 4096
  bulkBudget := 1000
  romABase := 0
  romAImage := []
  romCImage := []
  pageOffsetC := 0
  preloadD := 0
  preloadP := 0
  preloadX := 0
  preloadR2 := 0
  ef3PatchPc := 0
  ef3PatchLatch := 0
  ef3PatchValue := false

/-- The six commands of the Hardware Host (R340). -/
inductive HostCommand where
  | readKeyboard
  | updateOutputFlag
  | frameSync
  | readSecondaryKey
  | updateDisplay
  | setKeypadGroup
deriving DecidableEq, Repr

/-- FREE VALUE (log entry 5): what the Hardware Host answers to a poll for which no answer is fixed
in the state (R341: a draw, and two calls may answer differently). It depends on the command, on its
parameter and on how many commands were issued before. It has no body, so nothing in Lean can
evaluate it. -/
opaque Config.hostAnswer : HostCommand → Byte → Nat → Bool

end Sys2Proof
end

