-- ==== Sys2Proof/Machine/State.lean ====
section
/-!
DEFINITION. The state of the CORE as plain data (spec/10_state.md R20 to R36), the reasons a step can
stop, and the state after reset (R38, spec/70_reset_and_hazards.md R360).
-/

namespace Sys2Proof.Machine

/-- The states of the Frame Timing State Machine (R32). -/
inductive FrameState where
  | bulk
  | interruptPreliminary
deriving DecidableEq, Repr

/-- One command issued to the Hardware Host, with its parameter (R340, R342). -/
structure HostEvent where
  command : HostCommand
  parameter : Byte
deriving DecidableEq, Repr

/-- The bytes of the RAM buffer that are not zero, by their index in the buffer (R51), indices
strictly rising. A buffer byte that is not listed is 0x00 (`memoryDefault`; log entry 4). -/
abbrev Memory := List Host.Cell

/-- What an unlisted byte of the RAM buffer holds (log entry 4). -/
def memoryDefault : Byte := 0x00

/-- The CORE's state. -/
structure State where
  /-- The parameters of the instance and its Memory Map binding (R36, 00_scope.md R7). -/
  cfg : Config
  /-- The scratch registers R[0] to R[15] (R20). -/
  regs : Vector Word 16
  /-- The accumulator D (R22). -/
  d : Byte
  /-- The data flag DF (R23). -/
  df : Bool
  /-- P: which register is the program counter (R24). -/
  p : RegNum
  /-- X: which register is the data pointer (R25). -/
  x : RegNum
  /-- T: the saved X and P (R28). -/
  t : Byte
  /-- The interrupt-enable flag IE (R29). -/
  ie : Bool
  /-- The output flag Q (R30). -/
  q : Bool
  /-- The frame state (R32). -/
  frameState : FrameState
  /-- The cycle budget (R32). -/
  budget : Int
  /-- The screen-enabled flag (R33). -/
  screenEnabled : Bool
  /-- The captured base of the screen (R34). -/
  screenBase : Word
  /-- The captured scroll offset (R34). -/
  scroll : Byte
  /-- The last-sampled key; `none` is NONE (R35, R15). -/
  curKey : Option Key
  /-- The keyboard latch: a select value in its low four bits (Variants A, C) or the two-nibble
  accumulator (Variant B) (R35). -/
  keyLatch : Byte
  /-- The RAM buffer (R36). -/
  mem : Memory
  /-- The commands issued to the Hardware Host, newest first (R342, R343; log entry 6). -/
  hostLog : List HostEvent
  /-- The model's own field (log entry 5): answers already fixed for the coming polls of the
  Hardware Host, oldest first. When it is empty the answer is the free value `Config.hostAnswer`. -/
  hostAnswers : List Bool
deriving DecidableEq, Repr

/-- Why a step could stop with a fault: nothing. The CORE raises no exception and never stops
itself (60_exceptions.md R300, R301; log entry 15), so there is no constructor. -/
inductive Fault
deriving DecidableEq, Repr

/-- Why an instance or an instruction has no meaning. -/
inductive Refusal where
  /-- An instruction of the opcode table without a meaning; raised by an arm of `exec`. No arm
  raises it. Safe. -/
  | notModelled (mnemonic : String)
  /-- The parameters break the constraints of 00_scope.md R7, so the instance is refused (R8); raised
  by `step` and by a reset that binds such a buffer. Safe: nothing can be proved of its steps. -/
  | illFormedInstance
  /-- The first reset of an instance was given no RAM buffer (70_reset_and_hazards.md R363); raised by
  `firstReset`. Safe. -/
  | noRamBuffer
deriving DecidableEq, Repr

/-- The machine right after reset (R38), for the instance `Config.reference`. X, P, Q, R[0], IE, the
frame state, the budget, the screen flag, curKey and keyLatch are the spec's values. DESIGN CHOICE,
unsafe (log entries 1 to 4): the instance, the zero in D, DF, T and R[1] to R[15], in screenBase and
scroll, and a RAM buffer of zero bytes. `resetState` is the same procedure for every instance and
every draw. -/
def State.reset : State where
  cfg := Config.reference
  regs := Vector.replicate 16 0
  d := 0
  df := false
  p := 0
  x := 0
  t := 0
  ie := true
  q := false
  frameState := .bulk
  budget := Config.reference.bulkBudget
  screenEnabled := false
  screenBase := 0
  scroll := 0
  curKey := none
  keyLatch := 0
  mem := []
  hostLog := []
  hostAnswers := []

end Sys2Proof.Machine
end

