-- ==== Sys2Proof/Machine/MemoryMap.lean ====
section
/-!
DEFINITION. The RAM buffer and the per-variant Memory Map (spec/20_memory.md R50 to R61), the
constraints on an instance (spec/00_scope.md R7, R8) and the loading of bytes
(spec/60_exceptions.md R347).
-/

namespace Sys2Proof.Machine

/-! ### The RAM buffer -/

/-- The buffer byte at an index. -/
def ramRead : Memory → Nat → Byte
  | [], _ => memoryDefault
  | (k, v) :: rest, i => if k = i then v else ramRead rest i

/-- A cell in front of the cells above it, left out when it holds the default. -/
def ramCons (i : Nat) (v : Byte) (rest : Memory) : Memory :=
  if v = memoryDefault then rest else (i, v) :: rest

/-- The buffer without a cell at this index. -/
def ramErase (m : Memory) (i : Nat) : Memory := m.filter (fun c => c.1 != i)

/-- Puts a cell before the first cell with a higher index. -/
def ramInsert (i : Nat) (v : Byte) : Memory → Memory
  | [] => [(i, v)]
  | (k, w) :: rest => if k < i then (k, w) :: ramInsert i v rest else (i, v) :: (k, w) :: rest

/-- Stores a byte at an index and keeps the canonical form: a byte equal to what an unlisted byte
holds is not listed. -/
def ramWrite (m : Memory) (i : Nat) (v : Byte) : Memory :=
  if v = memoryDefault then ramErase m i else ramInsert i v (ramErase m i)

/-- The buffer that holds these bytes from an index on. -/
def ramOfBytes (start : Nat) : List Byte → Memory
  | [] => []
  | b :: rest => ramCons start b (ramOfBytes (start + 1) rest)

/-- The canonical form: indices strictly rising, and no entry equal to what an unlisted byte holds. -/
abbrev Memory.wf (m : Memory) : Prop :=
  m.Pairwise (fun a b => a.1 < b.1) ∧ ∀ c ∈ m, c.2 ≠ memoryDefault

/-! ### The instance -/

/-- The number of RAM bytes Variant C reaches (R54). -/
def ramWindowC : Nat := 512

/-- The constraints of R7 on the parameters that the variant uses; an instance that breaks them has
no meaning (R8). -/
abbrev configWf (c : Config) : Prop :=
  1 ≤ c.ramSize ∧ c.ramSize ≤ 65536 ∧
    (c.variant = .a → c.romABase + c.romAImage.length ≤ 65536 ∧ c.ramSize ≤ c.romABase) ∧
    (c.variant = .c → ramWindowC ≤ c.ramSize ∧ c.romCImage.length + ramWindowC ≤ 4096)

/-- `SENTINEL`: what an unmapped address reads as (R55). -/
def sentinel : Variant → Byte
  | .a => 0x00
  | .b => 0x00
  | .c => 0xFF

/-! ### The Memory Map -/

/-- What an address stands for (R51). -/
inductive Place where
  /-- The RAM buffer's byte at this index. -/
  | ram (index : Nat)
  /-- The read-only image's byte at this index. -/
  | rom (index : Nat)
  /-- No memory: reads as the sentinel, discards writes. -/
  | unmapped
deriving DecidableEq, Repr

/-- The least `k` with `2^k >= size`, for a size of at most 65536 (R53). -/
def coverExponent (size : Nat) : Nat :=
  ((List.range 17).find? (fun k => decide (size ≤ 2 ^ k))).getD 16

/-- `MASK_B` (R53). -/
def maskB (size : Nat) : Nat := 2 ^ coverExponent size - 1

/-- Variant A's decoder (R52). -/
def placeA (c : Config) (a : Nat) : Place :=
  if a < c.ramSize then .ram a
  else if c.romABase ≤ a ∧ a < c.romABase + c.romAImage.length then .rom (a - c.romABase)
  else .unmapped

/-- Variant B's decoder (R53), of the masked address. -/
def placeB (c : Config) (m : Nat) : Place :=
  if m < c.ramSize then .ram m else .unmapped

/-- Variant C's decoder (R54), of the masked address. -/
def placeC (c : Config) (m : Nat) : Place :=
  if m < c.romCImage.length then .rom m
  else if m < c.romCImage.length + ramWindowC then .ram (m - c.romCImage.length)
  else .unmapped

/-- The decoder of the instance's variant (R51). -/
def place (c : Config) (a : Word) : Place :=
  match c.variant with
  | .a => placeA c a.toNat
  | .b => placeB c (a.toNat &&& maskB c.ramSize)
  | .c => placeC c (a.toNat &&& 0x0FFF)

/-- The read-only image of the variant; Variant B has none (R53). -/
def romImage (c : Config) : List Byte :=
  match c.variant with
  | .a => c.romAImage
  | .b => []
  | .c => c.romCImage

/-- `MemRead(a, 1)`, written `M(a)` (R11, R51). -/
def readByte (s : State) (a : Word) : Byte :=
  match place s.cfg a with
  | .ram i => ramRead s.mem i
  | .rom i => (romImage s.cfg).getD i (sentinel s.cfg.variant)
  | .unmapped => sentinel s.cfg.variant

/-- `MemWrite(a, 1, v)` (R11, R51): a write outside RAM is discarded. -/
def writeByte (s : State) (a : Word) (v : Byte) : State :=
  match place s.cfg a with
  | .ram i => { s with mem := ramWrite s.mem i v }
  | .rom _ => s
  | .unmapped => s

/-- `loadBytes(address, data, length)`: each byte in turn through the write policy, addresses
modulo 2^16 (R347). -/
def loadBytes (s : State) (a : Word) : List Byte → State
  | [] => s
  | b :: rest => loadBytes (writeByte s a b) (a + 1) rest

end Sys2Proof.Machine
end

