-- ==== Sys2Proof/Machine/Ops.lean ====
section
/-!
DEFINITION. The shared operations: the scratch registers (spec/10_state.md R20 to R26), the commands
of the Hardware Host (spec/60_exceptions.md R340 to R344), the taking of the frame interrupt
(R317) and the return from it (spec/45_control.md R257, R258).
-/

namespace Sys2Proof.Machine

/-! ### Scratch registers -/

/-- `R[n]` (R10, R20). -/
def getReg (s : State) (n : RegNum) : Word := s.regs[n.toNat]

/-- `R[n] <- v` (R10). -/
def setReg (s : State) (n : RegNum) (v : Word) : State :=
  { s with regs := s.regs.set n.toNat v }

/-- `R[n] <- R[n] + 1`, modulo 2^16 (R20). -/
def incReg (s : State) (n : RegNum) : State := setReg s n (getReg s n + 1)

/-- `R[n] <- R[n] - 1`, modulo 2^16 (R20). -/
def decReg (s : State) (n : RegNum) : State := setReg s n (getReg s n - 1)

/-- The program counter `R[P]` (R26). -/
def pc (s : State) : Word := getReg s s.p

/-- `pc <- target`, that is `R[P] <- target` (R10). -/
def setPc (s : State) (target : Word) : State := setReg s s.p target

/-- `X : P` in one byte, X in bits 7:4 (R28). -/
def packXP (x p : RegNum) : Byte := x ++ p

/-! ### The Hardware Host -/

/-- Issues a command and records it (R342). -/
def hostCommand (s : State) (command : HostCommand) (parameter : Byte) : State :=
  { s with hostLog := { command, parameter } :: s.hostLog }

/-- Issues a command that is answered: the answer and the state after it. The answer is the next one
fixed in the state, or else the free value (R341; log entry 5). -/
def hostPoll (s : State) (command : HostCommand) (parameter : Byte) : Bool × State :=
  match s.hostAnswers with
  | b :: rest => (b, { hostCommand s command parameter with hostAnswers := rest })
  | [] => (Config.hostAnswer command parameter s.hostLog.length, hostCommand s command parameter)

/-! ### Taking the interrupt and returning from it -/

/-- Interrupt delivery: T takes X:P, P becomes 1, X becomes 2, IE becomes 0, and nothing else
changes (R317). -/
def deliverInterrupt (s : State) : State :=
  { s with t := packXP s.x s.p, p := 1, x := 2, ie := false }

/-- The return of RET and DIS: X and P from M(R[X]), and R[X] (of the X before) moves past it
(R257, R258); `enable` is the new IE. -/
def returnWith (s : State) (enable : Bool) : State :=
  let v := readByte s (getReg s s.x)
  { incReg s s.x with x := groupOf v, p := fieldOf v, ie := enable }

end Sys2Proof.Machine
end

