-- ==== Sys2Proof/Machine/Operands.lean ====
section
/-!
DEFINITION. The operand forms and where an instruction continues (spec/30_encoding.md R93, R94, R96;
spec/44_branch.md R200, R220, R221). Every form is taken in the execute phase, when R[P] already
addresses the byte after the opcode (spec/00_scope.md R13).
-/

namespace Sys2Proof.Machine

/-- The memory operand `M(R[X])` (R96). -/
def memOperand (s : State) : Byte := readByte s (getReg s s.x)

/-- Moves the program counter past one operand byte (R93). -/
def skipOperand (s : State) : State := setPc s (pc s + 1)

/-- A short branch's target: its low byte in the page of the operand byte (R94). -/
def shortTarget (s : State) (a : Byte) : Word := joinBytes (hiByte (pc s)) a

/-- `ShortBranch(cond)` (R200). -/
def shortBranch (s : State) (cond : Bool) (a : Byte) : State :=
  if cond then setPc s (shortTarget s a) else setPc s (pc s + 1)

/-- `LongBranch(cond)` (R220). -/
def longBranch (s : State) (cond : Bool) (target : Word) : State :=
  if cond then setPc s target else setPc s (pc s + 2)

/-- `LongSkip(cond)` (R221). -/
def longSkip (s : State) (cond : Bool) : State :=
  if cond then setPc s (pc s + 2) else s

end Sys2Proof.Machine
end

