-- ==== Sys2Proof/Machine/Flags.lean ====
section
/-!
DEFINITION. The results with DF: the arithmetic laws (spec/43_arithmetic.md R180) and the shifts
(spec/42_logic.md R170 to R174). Each gives the new D and the new DF.
-/

namespace Sys2Proof.Machine

/-- `add(a, b, c)`: the sum as an integer; DF is the carry (R180). -/
def addWithCarry (a b : Byte) (c : Bool) : Byte × Bool :=
  let r := a.toNat + b.toNat + c.toNat
  (BitVec.ofNat 8 r, decide (256 ≤ r))

/-- `sub(a, b, c)`: the difference as an integer; DF is 1 when there is no borrow (R180). -/
def subWithBorrow (a b : Byte) (c : Bool) : Byte × Bool :=
  let r : Int := a.toNat - b.toNat - (1 - c.toNat)
  (BitVec.ofInt 8 r, decide (0 ≤ r))

/-- A shift right with `c` shifted in at bit 7; DF is the old bit 0 (R170 to R172). -/
def shiftRight (d : Byte) (c : Bool) : Byte × Bool :=
  ((BitVec.ofBool c).zeroExtend 8 <<< 7 ||| d >>> 1, d.getLsbD 0)

/-- A shift left with `c` shifted in at bit 0; DF is the old bit 7 (R170, R173, R174). -/
def shiftLeft (d : Byte) (c : Bool) : Byte × Bool :=
  (d <<< 1 ||| (BitVec.ofBool c).zeroExtend 8, d.getLsbD 7)

/-- Writes a result to D and DF. -/
def setResult (s : State) (r : Byte × Bool) : State := { s with d := r.1, df := r.2 }

/-- `D = 0x00`, the zero test of the branches (R22). -/
def dIsZero (s : State) : Bool := s.d == 0x00

end Sys2Proof.Machine
end

