-- ==== Sys2Proof/Machine/Devices.lean ====
section
/-!
DEFINITION. The I/O dispatch and the external flags (spec/46_io.md R280 to R293).
-/

namespace Sys2Proof.Machine

/-- The shape of the keyboard latch, `KEYLATCH_KIND` (spec/00_scope.md R7). -/
inductive LatchKind where
  | select
  | shift
deriving DecidableEq, Repr

/-- `KEYLATCH_KIND` of a variant (R7, decision D14; log entry 10). -/
def latchKind : Variant → LatchKind
  | .a => .select
  | .b => .shift
  | .c => .select

/-- `EF3_SOURCE = live` (R7, decision D14; log entry 10). -/
def ef3Live : Variant → Bool
  | .a => true
  | .b => false
  | .c => true

/-- `HAS_PORT4` (R7, decision D14; log entry 10). -/
def hasPort4 : Variant → Bool
  | .a => false
  | .b => true
  | .c => false

/-- The flag-3 patch exists in Variant A only (R291, decision D14; log entry 10). -/
def hasEf3Patch : Variant → Bool
  | .a => true
  | .b => false
  | .c => false

/-- `IoOut(port, data)` (R280). -/
def ioOut (s : State) (port : Port) (data : Byte) : State :=
  match port.toNat with
  | 0 => hostCommand s .updateOutputFlag data
  | 1 => { s with screenEnabled := false }
  | 2 =>
    match latchKind s.cfg.variant with
    | .select => { s with keyLatch := (fieldOf data).zeroExtend 8 }
    | .shift => s
  | 4 => if hasPort4 s.cfg.variant then hostCommand s .updateDisplay data else s
  | _ => s

/-- `IoIn(port)`: the value and the state after it (R283, R287, R288). -/
def ioIn (s : State) (port : Port) : Byte × State :=
  match port.toNat with
  | 1 => (0x00, { s with screenEnabled := true })
  | 4 => if hasPort4 s.cfg.variant then (s.keyLatch, s) else (0x00, s)
  | _ => (0x00, s)

/-- The four external flags (R290). -/
inductive ExternalFlag where
  | ef1
  | ef2
  | ef3
  | ef4
deriving DecidableEq, Repr

/-- The flag-3 patch applies: in Variant A, at the patch's value of R[P] and of the latch (R291). -/
def ef3Patched (s : State) : Bool :=
  hasEf3Patch s.cfg.variant && pc s == s.cfg.ef3PatchPc && s.keyLatch == s.cfg.ef3PatchLatch

/-- `TestFlag(n)`: the bit and the state after it, since flags 3 and 4 may ask the Hardware Host
(R290 to R293). -/
def testFlag (s : State) (flag : ExternalFlag) : Bool × State :=
  match flag with
  | .ef1 => (true, s)
  | .ef2 => (false, s)
  | .ef3 =>
    if ef3Patched s then (s.cfg.ef3PatchValue, s)
    else if ef3Live s.cfg.variant then hostPoll s .readKeyboard s.keyLatch
    else (s.curKey.isSome, s)
  | .ef4 =>
    let r := hostPoll s .readSecondaryKey 0
    (!r.1, r.2)

end Sys2Proof.Machine
end

