-- ==== Sys2Proof/Machine/Arithmetic.lean ====
section
/-!
DEFINITION. The arithmetic instructions (spec/43_arithmetic.md R180 to R192).
-/

namespace Sys2Proof.Machine

/-- ADD: `add(M(R[X]), D, 0)` (R181). -/
def execAdd (s : State) : Host.Outcome State Fault Refusal :=
  .next (setResult s (addWithCarry (memOperand s) s.d false))

/-- ADI: `add(M(R[P]), D, 0); R[P] <- R[P] + 1` (R182). -/
def execAdi (imm : Byte) (s : State) : Host.Outcome State Fault Refusal :=
  .next (skipOperand (setResult s (addWithCarry imm s.d false)))

/-- ADC: `add(M(R[X]), D, DF)` (R183). -/
def execAdc (s : State) : Host.Outcome State Fault Refusal :=
  .next (setResult s (addWithCarry (memOperand s) s.d s.df))

/-- ADCI: `add(M(R[P]), D, DF); R[P] <- R[P] + 1` (R184). -/
def execAdci (imm : Byte) (s : State) : Host.Outcome State Fault Refusal :=
  .next (skipOperand (setResult s (addWithCarry imm s.d s.df)))

/-- SD: `sub(M(R[X]), D, 1)` (R185). -/
def execSd (s : State) : Host.Outcome State Fault Refusal :=
  .next (setResult s (subWithBorrow (memOperand s) s.d true))

/-- SDI: `sub(M(R[P]), D, 1); R[P] <- R[P] + 1` (R186). -/
def execSdi (imm : Byte) (s : State) : Host.Outcome State Fault Refusal :=
  .next (skipOperand (setResult s (subWithBorrow imm s.d true)))

/-- SDB: `sub(M(R[X]), D, DF)` (R187). -/
def execSdb (s : State) : Host.Outcome State Fault Refusal :=
  .next (setResult s (subWithBorrow (memOperand s) s.d s.df))

/-- SDBI: `sub(M(R[P]), D, DF); R[P] <- R[P] + 1` (R188). -/
def execSdbi (imm : Byte) (s : State) : Host.Outcome State Fault Refusal :=
  .next (skipOperand (setResult s (subWithBorrow imm s.d s.df)))

/-- SM: `sub(D, M(R[X]), 1)` (R189). -/
def execSm (s : State) : Host.Outcome State Fault Refusal :=
  .next (setResult s (subWithBorrow s.d (memOperand s) true))

/-- SMI: `sub(D, M(R[P]), 1); R[P] <- R[P] + 1` (R190). -/
def execSmi (imm : Byte) (s : State) : Host.Outcome State Fault Refusal :=
  .next (skipOperand (setResult s (subWithBorrow s.d imm true)))

/-- SMB: `sub(D, M(R[X]), DF)` (R191). -/
def execSmb (s : State) : Host.Outcome State Fault Refusal :=
  .next (setResult s (subWithBorrow s.d (memOperand s) s.df))

/-- SMBI: `sub(D, M(R[P]), DF); R[P] <- R[P] + 1` (R192). -/
def execSmbi (imm : Byte) (s : State) : Host.Outcome State Fault Refusal :=
  .next (skipOperand (setResult s (subWithBorrow s.d imm s.df)))

end Sys2Proof.Machine
end

