-- ==== Sys2Proof/Machine/Branch.lean ====
section
/-!
DEFINITION. The branch and skip instructions (spec/44_branch.md R200 to R237).
-/

namespace Sys2Proof.Machine

/-- A short branch on an external flag: the flag is tested once, while R[P] holds the operand byte's
address, and the branch is taken when it equals `want` (R200, R290). -/
def branchOnFlag (s : State) (flag : ExternalFlag) (want : Bool) (a : Byte) : State :=
  let r := testFlag s flag
  shortBranch r.2 (r.1 == want) a

/-- BR: `ShortBranch(1)` (R201). -/
def execBr (a : Byte) (s : State) : Host.Outcome State Fault Refusal :=
  .next (shortBranch s true a)

/-- BQ: `ShortBranch(Q = 1)` (R202). -/
def execBq (a : Byte) (s : State) : Host.Outcome State Fault Refusal :=
  .next (shortBranch s s.q a)

/-- BZ: `ShortBranch(D = 0)` (R203). -/
def execBz (a : Byte) (s : State) : Host.Outcome State Fault Refusal :=
  .next (shortBranch s (dIsZero s) a)

/-- BDF: `ShortBranch(DF = 1)` (R204). -/
def execBdf (a : Byte) (s : State) : Host.Outcome State Fault Refusal :=
  .next (shortBranch s s.df a)

/-- B1: `ShortBranch(TestFlag(1) = 1)` (R205). -/
def execB1 (a : Byte) (s : State) : Host.Outcome State Fault Refusal :=
  .next (branchOnFlag s .ef1 true a)

/-- B2: `ShortBranch(TestFlag(2) = 1)` (R206). -/
def execB2 (a : Byte) (s : State) : Host.Outcome State Fault Refusal :=
  .next (branchOnFlag s .ef2 true a)

/-- B3: `ShortBranch(TestFlag(3) = 1)` (R207). -/
def execB3 (a : Byte) (s : State) : Host.Outcome State Fault Refusal :=
  .next (branchOnFlag s .ef3 true a)

/-- B4: `ShortBranch(TestFlag(4) = 1)` (R208). -/
def execB4 (a : Byte) (s : State) : Host.Outcome State Fault Refusal :=
  .next (branchOnFlag s .ef4 true a)

/-- SKP: `R[P] <- R[P] + 1` (R209). -/
def execSkp (s : State) : Host.Outcome State Fault Refusal :=
  .next (setPc s (pc s + 1))

/-- BNQ: `ShortBranch(Q = 0)` (R210). -/
def execBnq (a : Byte) (s : State) : Host.Outcome State Fault Refusal :=
  .next (shortBranch s (!s.q) a)

/-- BNZ: `ShortBranch(D != 0)` (R211). -/
def execBnz (a : Byte) (s : State) : Host.Outcome State Fault Refusal :=
  .next (shortBranch s (!dIsZero s) a)

/-- BNF: `ShortBranch(DF = 0)` (R212). -/
def execBnf (a : Byte) (s : State) : Host.Outcome State Fault Refusal :=
  .next (shortBranch s (!s.df) a)

/-- BN1: `ShortBranch(TestFlag(1) = 0)` (R213). -/
def execBn1 (a : Byte) (s : State) : Host.Outcome State Fault Refusal :=
  .next (branchOnFlag s .ef1 false a)

/-- BN2: `ShortBranch(TestFlag(2) = 0)` (R214). -/
def execBn2 (a : Byte) (s : State) : Host.Outcome State Fault Refusal :=
  .next (branchOnFlag s .ef2 false a)

/-- BN3: `ShortBranch(TestFlag(3) = 0)` (R215). -/
def execBn3 (a : Byte) (s : State) : Host.Outcome State Fault Refusal :=
  .next (branchOnFlag s .ef3 false a)

/-- BN4: `ShortBranch(TestFlag(4) = 0)` (R216). -/
def execBn4 (a : Byte) (s : State) : Host.Outcome State Fault Refusal :=
  .next (branchOnFlag s .ef4 false a)

/-- LBR: `LongBranch(1)` (R222). -/
def execLbr (target : Word) (s : State) : Host.Outcome State Fault Refusal :=
  .next (longBranch s true target)

/-- LBQ: `LongBranch(Q = 1)` (R223). -/
def execLbq (target : Word) (s : State) : Host.Outcome State Fault Refusal :=
  .next (longBranch s s.q target)

/-- LBZ: `LongBranch(D = 0)` (R224). -/
def execLbz (target : Word) (s : State) : Host.Outcome State Fault Refusal :=
  .next (longBranch s (dIsZero s) target)

/-- LBDF: `LongBranch(DF = 1)` (R225). -/
def execLbdf (target : Word) (s : State) : Host.Outcome State Fault Refusal :=
  .next (longBranch s s.df target)

/-- NOP: nothing beyond the opcode fetch (R226). -/
def execNop (s : State) : Host.Outcome State Fault Refusal :=
  .next s

/-- LSNQ: `LongSkip(Q = 0)` (R227). -/
def execLsnq (s : State) : Host.Outcome State Fault Refusal :=
  .next (longSkip s (!s.q))

/-- LSNZ: `LongSkip(D != 0)` (R228). -/
def execLsnz (s : State) : Host.Outcome State Fault Refusal :=
  .next (longSkip s (!dIsZero s))

/-- LSNF: `LongSkip(DF = 0)` (R229). -/
def execLsnf (s : State) : Host.Outcome State Fault Refusal :=
  .next (longSkip s (!s.df))

/-- LSKP: `LongSkip(1)` (R230). -/
def execLskp (s : State) : Host.Outcome State Fault Refusal :=
  .next (longSkip s true)

/-- LBNQ: `LongBranch(Q = 0)` (R231). -/
def execLbnq (target : Word) (s : State) : Host.Outcome State Fault Refusal :=
  .next (longBranch s (!s.q) target)

/-- LBNZ: `LongBranch(D != 0)` (R232). -/
def execLbnz (target : Word) (s : State) : Host.Outcome State Fault Refusal :=
  .next (longBranch s (!dIsZero s) target)

/-- LBNF: `LongBranch(DF = 0)` (R233). -/
def execLbnf (target : Word) (s : State) : Host.Outcome State Fault Refusal :=
  .next (longBranch s (!s.df) target)

/-- LSIE: `LongSkip(IE = 1)` (R234). -/
def execLsie (s : State) : Host.Outcome State Fault Refusal :=
  .next (longSkip s s.ie)

/-- LSQ: `LongSkip(Q = 1)` (R235). -/
def execLsq (s : State) : Host.Outcome State Fault Refusal :=
  .next (longSkip s s.q)

/-- LSZ: `LongSkip(D = 0)` (R236). -/
def execLsz (s : State) : Host.Outcome State Fault Refusal :=
  .next (longSkip s (dIsZero s))

/-- LSDF: `LongSkip(DF = 1)` (R237). -/
def execLsdf (s : State) : Host.Outcome State Fault Refusal :=
  .next (longSkip s s.df)

end Sys2Proof.Machine
end

