-- ==== Sys2Proof/Machine/Control.lean ====
section
/-!
DEFINITION. The control instructions (spec/45_control.md R250 to R259).
-/

namespace Sys2Proof.Machine

/-- IDL: `R[P] <- R[P] - 1`, back onto the IDL (R250). -/
def execIdl (s : State) : Host.Outcome State Fault Refusal :=
  .next (setPc s (pc s - 1))

/-- SEP N: `P <- N` (R251). -/
def execSep (n : RegNum) (s : State) : Host.Outcome State Fault Refusal :=
  .next { s with p := n }

/-- SEX N: `X <- N` (R252). -/
def execSex (n : RegNum) (s : State) : Host.Outcome State Fault Refusal :=
  .next { s with x := n }

/-- SEQ: `Q <- 1; IoOut(0, 1)` (R253). -/
def execSeq (s : State) : Host.Outcome State Fault Refusal :=
  .next (ioOut { s with q := true } 0 1)

/-- REQ: `Q <- 0; IoOut(0, 0)` (R254). -/
def execReq (s : State) : Host.Outcome State Fault Refusal :=
  .next (ioOut { s with q := false } 0 0)

/-- SAV: `MemWrite(R[X], 1, T)` (R255). -/
def execSav (s : State) : Host.Outcome State Fault Refusal :=
  .next (writeByte s (getReg s s.x) s.t)

/-- MARK: `T <- X : P; MemWrite(R[2], 1, T); X <- P; R[2] <- R[2] - 1` (R256). -/
def execMark (s : State) : Host.Outcome State Fault Refusal :=
  .next (decReg { writeByte { s with t := packXP s.x s.p } (getReg s 2) (packXP s.x s.p) with x := s.p } 2)

/-- RET: the return with `IE <- 1` (R257). -/
def execRet (s : State) : Host.Outcome State Fault Refusal :=
  .next (returnWith s true)

/-- DIS: the return with `IE <- 0` (R258). -/
def execDis (s : State) : Host.Outcome State Fault Refusal :=
  .next (returnWith s false)

/-- The unassigned byte 0x68: nothing beyond the opcode fetch, as R259 says of the CORE (log entry 26).
DESIGN CHOICE, unsafe for the real chip (log entry 35): what the real CDP1802 does for 0x68 is not
specified (spec/93_implementation_defined.md), and this meaning is of the CORE only. A claim about the
real chip that depends on 0x68 is to be refused. -/
def execUnassigned68 (s : State) : Host.Outcome State Fault Refusal :=
  .next s

end Sys2Proof.Machine
end

