-- ==== Sys2Proof/Machine/Io.lean ====
section
/-!
DEFINITION. The I/O instructions (spec/46_io.md R289, R294).
-/

namespace Sys2Proof.Machine

/-- OUT N: `v <- M(R[X]); R[X] <- R[X] + 1; IoOut(N, v)` (R289). -/
def execOut (port : Port) (s : State) : Host.Outcome State Fault Refusal :=
  .next (ioOut (incReg s s.x) port (memOperand s))

/-- INP N: `v <- IoIn(N); MemWrite(R[X], 1, v); D <- v` (R294). -/
def execInp (port : Port) (s : State) : Host.Outcome State Fault Refusal :=
  let r := ioIn s port
  .next { writeByte r.2 (getReg r.2 r.2.x) r.1 with d := r.1 }

end Sys2Proof.Machine
end

