-- ==== Sys2Proof/Machine/Logic.lean ====
section
/-!
DEFINITION. The logic and shift instructions (spec/42_logic.md R160 to R174).
-/

namespace Sys2Proof.Machine

/-- OR: `D <- M(R[X]) | D` (R160). -/
def execOr (s : State) : Host.Outcome State Fault Refusal :=
  .next { s with d := memOperand s ||| s.d }

/-- ORI: `D <- M(R[P]) | D; R[P] <- R[P] + 1` (R161). -/
def execOri (imm : Byte) (s : State) : Host.Outcome State Fault Refusal :=
  .next (skipOperand { s with d := imm ||| s.d })

/-- XOR: `D <- M(R[X]) ^ D` (R162). -/
def execXor (s : State) : Host.Outcome State Fault Refusal :=
  .next { s with d := memOperand s ^^^ s.d }

/-- XRI: `D <- M(R[P]) ^ D; R[P] <- R[P] + 1` (R163). -/
def execXri (imm : Byte) (s : State) : Host.Outcome State Fault Refusal :=
  .next (skipOperand { s with d := imm ^^^ s.d })

/-- AND: `D <- M(R[X]) & D` (R164). -/
def execAnd (s : State) : Host.Outcome State Fault Refusal :=
  .next { s with d := memOperand s &&& s.d }

/-- ANI: `D <- M(R[P]) & D; R[P] <- R[P] + 1` (R165). -/
def execAni (imm : Byte) (s : State) : Host.Outcome State Fault Refusal :=
  .next (skipOperand { s with d := imm &&& s.d })

/-- SHR: a 0 is shifted in (R171). -/
def execShr (s : State) : Host.Outcome State Fault Refusal :=
  .next (setResult s (shiftRight s.d false))

/-- SHRC: the old DF is shifted in (R172). -/
def execShrc (s : State) : Host.Outcome State Fault Refusal :=
  .next (setResult s (shiftRight s.d s.df))

/-- SHL: a 0 is shifted in (R173). -/
def execShl (s : State) : Host.Outcome State Fault Refusal :=
  .next (setResult s (shiftLeft s.d false))

/-- SHLC: the old DF is shifted in (R174). -/
def execShlc (s : State) : Host.Outcome State Fault Refusal :=
  .next (setResult s (shiftLeft s.d s.df))

end Sys2Proof.Machine
end

