-- ==== Sys2Proof/Machine/MemoryReference.lean ====
section
/-!
DEFINITION. The memory-reference instructions (spec/40_memory_reference.md R120 to R126).
-/

namespace Sys2Proof.Machine

/-- LDN N: `D <- M(R[N])` (R120). -/
def execLdn (n : RegNum) (s : State) : Host.Outcome State Fault Refusal :=
  .next { s with d := readByte s (getReg s n) }

/-- LDA N: `D <- M(R[N]); R[N] <- R[N] + 1` (R121). -/
def execLda (n : RegNum) (s : State) : Host.Outcome State Fault Refusal :=
  .next (incReg { s with d := readByte s (getReg s n) } n)

/-- LDX: `D <- M(R[X])` (R122). -/
def execLdx (s : State) : Host.Outcome State Fault Refusal :=
  .next { s with d := memOperand s }

/-- LDXA: `D <- M(R[X]); R[X] <- R[X] + 1` (R123). -/
def execLdxa (s : State) : Host.Outcome State Fault Refusal :=
  .next (incReg { s with d := memOperand s } s.x)

/-- LDI: `D <- M(R[P]); R[P] <- R[P] + 1`; `imm` is that byte, as fetched (R124, R93). -/
def execLdi (imm : Byte) (s : State) : Host.Outcome State Fault Refusal :=
  .next (skipOperand { s with d := imm })

/-- STR N: `MemWrite(R[N], 1, D)` (R125). -/
def execStr (n : RegNum) (s : State) : Host.Outcome State Fault Refusal :=
  .next (writeByte s (getReg s n) s.d)

/-- STXD: `MemWrite(R[X], 1, D); R[X] <- R[X] - 1` (R126). -/
def execStxd (s : State) : Host.Outcome State Fault Refusal :=
  .next (decReg (writeByte s (getReg s s.x) s.d) s.x)

end Sys2Proof.Machine
end

