-- ==== Sys2Proof/Machine/RegisterOps.lean ====
section
/-!
DEFINITION. The register operations (spec/41_register_operations.md R140 to R146).
-/

namespace Sys2Proof.Machine

/-- INC N: `R[N] <- R[N] + 1` (R140). -/
def execInc (n : RegNum) (s : State) : Host.Outcome State Fault Refusal :=
  .next (incReg s n)

/-- DEC N: `R[N] <- R[N] - 1` (R141). -/
def execDec (n : RegNum) (s : State) : Host.Outcome State Fault Refusal :=
  .next (decReg s n)

/-- IRX: `R[X] <- R[X] + 1` (R142). -/
def execIrx (s : State) : Host.Outcome State Fault Refusal :=
  .next (incReg s s.x)

/-- GLO N: `D <- R[N].0` (R143). -/
def execGlo (n : RegNum) (s : State) : Host.Outcome State Fault Refusal :=
  .next { s with d := loByte (getReg s n) }

/-- GHI N: `D <- R[N].1` (R144). -/
def execGhi (n : RegNum) (s : State) : Host.Outcome State Fault Refusal :=
  .next { s with d := hiByte (getReg s n) }

/-- PLO N: `R[N].0 <- D` (R145). -/
def execPlo (n : RegNum) (s : State) : Host.Outcome State Fault Refusal :=
  .next (setReg s n (joinBytes (hiByte (getReg s n)) s.d))

/-- PHI N: `R[N].1 <- D` (R146). -/
def execPhi (n : RegNum) (s : State) : Host.Outcome State Fault Refusal :=
  .next (setReg s n (joinBytes s.d (loByte (getReg s n))))

end Sys2Proof.Machine
end

