-- ==== Sys2Proof/Machine/Dispatch.lean ====
section
/-!
DEFINITION. The execute phase of each instruction (spec/30_encoding.md R95): one arm per constructor.
The state is the one after the opcode fetch has advanced R[P] (spec/00_scope.md R13).
-/

namespace Sys2Proof.Machine

def exec (i : Instr) (s : State) : Host.Outcome State Fault Refusal :=
  match i with
  | .ldn n => Sys2Proof.Machine.execLdn n s
  | .lda n => Sys2Proof.Machine.execLda n s
  | .ldx => Sys2Proof.Machine.execLdx s
  | .ldxa => Sys2Proof.Machine.execLdxa s
  | .ldi imm => Sys2Proof.Machine.execLdi imm s
  | .str n => Sys2Proof.Machine.execStr n s
  | .stxd => Sys2Proof.Machine.execStxd s
  | .inc n => Sys2Proof.Machine.execInc n s
  | .dec n => Sys2Proof.Machine.execDec n s
  | .irx => Sys2Proof.Machine.execIrx s
  | .glo n => Sys2Proof.Machine.execGlo n s
  | .ghi n => Sys2Proof.Machine.execGhi n s
  | .plo n => Sys2Proof.Machine.execPlo n s
  | .phi n => Sys2Proof.Machine.execPhi n s
  | .or => Sys2Proof.Machine.execOr s
  | .ori imm => Sys2Proof.Machine.execOri imm s
  | .xor => Sys2Proof.Machine.execXor s
  | .xri imm => Sys2Proof.Machine.execXri imm s
  | .and => Sys2Proof.Machine.execAnd s
  | .ani imm => Sys2Proof.Machine.execAni imm s
  | .shr => Sys2Proof.Machine.execShr s
  | .shrc => Sys2Proof.Machine.execShrc s
  | .shl => Sys2Proof.Machine.execShl s
  | .shlc => Sys2Proof.Machine.execShlc s
  | .add => Sys2Proof.Machine.execAdd s
  | .adi imm => Sys2Proof.Machine.execAdi imm s
  | .adc => Sys2Proof.Machine.execAdc s
  | .adci imm => Sys2Proof.Machine.execAdci imm s
  | .sd => Sys2Proof.Machine.execSd s
  | .sdi imm => Sys2Proof.Machine.execSdi imm s
  | .sdb => Sys2Proof.Machine.execSdb s
  | .sdbi imm => Sys2Proof.Machine.execSdbi imm s
  | .sm => Sys2Proof.Machine.execSm s
  | .smi imm => Sys2Proof.Machine.execSmi imm s
  | .smb => Sys2Proof.Machine.execSmb s
  | .smbi imm => Sys2Proof.Machine.execSmbi imm s
  | .br a => Sys2Proof.Machine.execBr a s
  | .bq a => Sys2Proof.Machine.execBq a s
  | .bz a => Sys2Proof.Machine.execBz a s
  | .bdf a => Sys2Proof.Machine.execBdf a s
  | .b1 a => Sys2Proof.Machine.execB1 a s
  | .b2 a => Sys2Proof.Machine.execB2 a s
  | .b3 a => Sys2Proof.Machine.execB3 a s
  | .b4 a => Sys2Proof.Machine.execB4 a s
  | .skp => Sys2Proof.Machine.execSkp s
  | .bnq a => Sys2Proof.Machine.execBnq a s
  | .bnz a => Sys2Proof.Machine.execBnz a s
  | .bnf a => Sys2Proof.Machine.execBnf a s
  | .bn1 a => Sys2Proof.Machine.execBn1 a s
  | .bn2 a => Sys2Proof.Machine.execBn2 a s
  | .bn3 a => Sys2Proof.Machine.execBn3 a s
  | .bn4 a => Sys2Proof.Machine.execBn4 a s
  | .lbr target => Sys2Proof.Machine.execLbr target s
  | .lbq target => Sys2Proof.Machine.execLbq target s
  | .lbz target => Sys2Proof.Machine.execLbz target s
  | .lbdf target => Sys2Proof.Machine.execLbdf target s
  | .nop => Sys2Proof.Machine.execNop s
  | .lsnq => Sys2Proof.Machine.execLsnq s
  | .lsnz => Sys2Proof.Machine.execLsnz s
  | .lsnf => Sys2Proof.Machine.execLsnf s
  | .lskp => Sys2Proof.Machine.execLskp s
  | .lbnq target => Sys2Proof.Machine.execLbnq target s
  | .lbnz target => Sys2Proof.Machine.execLbnz target s
  | .lbnf target => Sys2Proof.Machine.execLbnf target s
  | .lsie => Sys2Proof.Machine.execLsie s
  | .lsq => Sys2Proof.Machine.execLsq s
  | .lsz => Sys2Proof.Machine.execLsz s
  | .lsdf => Sys2Proof.Machine.execLsdf s
  | .idl => Sys2Proof.Machine.execIdl s
  | .sep n => Sys2Proof.Machine.execSep n s
  | .sex n => Sys2Proof.Machine.execSex n s
  | .seq => Sys2Proof.Machine.execSeq s
  | .req => Sys2Proof.Machine.execReq s
  | .sav => Sys2Proof.Machine.execSav s
  | .mark => Sys2Proof.Machine.execMark s
  | .ret => Sys2Proof.Machine.execRet s
  | .dis => Sys2Proof.Machine.execDis s
  | .unassigned68 => Sys2Proof.Machine.execUnassigned68 s
  | .out port => Sys2Proof.Machine.execOut port s
  | .inp port => Sys2Proof.Machine.execInp port s

end Sys2Proof.Machine
end

