-- ==== Sys2Proof/Machine/Frame.lean ====
section
/-!
DEFINITION. The Frame Timing State Machine (spec/60_exceptions.md R310 to R328): the cost of an
instruction, the two transitions, the screen capture and the keyboard.
-/

namespace Sys2Proof.Machine

/-- `STEP_COST` (00_scope.md R7, R311). -/
def stepCost : Int := 2

/-- `IP_BUDGET` (00_scope.md R7, R313). -/
def ipBudget : Int := 29

/-! ### Bulk to InterruptPreliminary -/

/-- The IDL wake: the program counter passes an IDL byte (R315). -/
def idlWake (s : State) : State :=
  if readByte s (pc s) = 0x00 then setPc s (pc s + 1) else s

/-- Delivery only when IE = 1 (R316). -/
def interruptIfEnabled (s : State) : State := if s.ie then deliverInterrupt s else s

/-- `BulkToIP()` (R314). -/
def bulkToIP (s : State) : State :=
  let s1 := if s.screenEnabled then interruptIfEnabled (idlWake s) else s
  { s1 with frameState := .interruptPreliminary, budget := ipBudget }

/-! ### InterruptPreliminary to Bulk -/

/-- `SCREEN_PAGE_OFFSET` of the variant (00_scope.md R7). -/
def screenPageOffset (c : Config) : Byte :=
  match c.variant with
  | .a => 0
  | .b => 0
  | .c => c.pageOffsetC

/-- `CaptureScreen()` (R322). -/
def captureScreen (s : State) : State :=
  { s with
    screenBase := joinBytes (hiByte (getReg s 0) + screenPageOffset s.cfg) 0x00
    scroll := loByte (getReg s 0) }

/-- The keys in the order they are sampled, 0 to 15 (R324). -/
def allKeys : List Key := [0, 1, 2, 3, 4, 5, 6, 7, 8, 9, 10, 11, 12, 13, 14, 15]

/-- Polls these keys in turn: the answers in the same order, and the state after them (R324). -/
def pollKeys (s : State) : List Key → List Bool × State
  | [] => ([], s)
  | k :: rest =>
    let r := hostPoll s .readKeyboard (k.zeroExtend 8)
    let rs := pollKeys r.2 rest
    (r.1 :: rs.1, rs.2)

/-- The key of a sample: the lowest pressed index, or NONE (R325, decision D12; log entry 18). -/
def pressedKey (answers : List Bool) : Option Key :=
  ((allKeys.zip answers).find? (fun ka => ka.2)).map (fun ka => ka.1)

/-- `KeyEdge(k)` (R326, R327). -/
def keyEdge (s : State) (k : Option Key) : State :=
  if k = s.curKey then s
  else
    match latchKind s.cfg.variant, k with
    | .shift, some key =>
      { s with keyLatch := (s.keyLatch <<< 4) ||| key.zeroExtend 8, curKey := some key }
    | _, _ => { s with curKey := k }

/-- `IPToBulk()` (R321): capture, frame sync (R323), key sample and edge, in that order. -/
def ipToBulk (s : State) : State :=
  let s1 := hostCommand (captureScreen s) .frameSync 0
  let r := pollKeys s1 allKeys
  let s2 := keyEdge r.2 (pressedKey r.1)
  { s2 with frameState := .bulk, budget := s.cfg.bulkBudget }

/-! ### The bookkeeping of one advance -/

/-- The part of an advance after its instruction: the cost, and a transition when the budget is
negative (R310 to R313). -/
def frameTick (s : State) : State :=
  let s1 := { s with budget := s.budget - stepCost }
  if s1.budget < 0 then
    match s1.frameState with
    | .bulk => bulkToIP s1
    | .interruptPreliminary => ipToBulk s1
  else s1

end Sys2Proof.Machine
end

