-- ==== Sys2Proof/Machine/Fetch.lean ====
section
/-!
DEFINITION. The opcode fetch (spec/30_encoding.md R95) and the placing of an instruction where the
next fetch is.
-/

namespace Sys2Proof.Machine

/-- The instruction at the program counter: its opcode byte and the operand bytes after it, read
through the Memory Map (R95, R93, R94; log entry 12). -/
def fetchInstr (s : State) : Instr :=
  decodeOp (readByte s (pc s)) (readByte s (pc s + 1)) (readByte s (pc s + 2))

/-- `R[P] <- R[P] + 1` of the fetch (R95). -/
def afterFetch (s : State) : State := setPc s (pc s + 1)

/-- Stores the bytes of a table word where the next instruction is fetched, as `loadBytes` does
(spec/60_exceptions.md R347; log entry 14). -/
def storeFetchWord (s : State) (nbits w : Nat) : State :=
  loadBytes s (pc s) (bytesOfNat (w % 2 ^ nbits) maxLength)

end Sys2Proof.Machine
end

