-- ==== Sys2Proof/Machine/Step.lean ====
section
/-!
DEFINITION. One advance (spec/60_exceptions.md R310): the instruction step (spec/30_encoding.md R95)
and the frame bookkeeping after it.
-/

namespace Sys2Proof.Machine

/-- One advance (R310). An instance whose parameters are not well formed is refused
(spec/00_scope.md R8). -/
def step (s : State) : Host.Outcome State Fault Refusal :=
  if configWf s.cfg then
    match exec (fetchInstr s) (afterFetch s) with
    | .next s1 => .next (frameTick s1)
    | .fault r => .fault r
    | .refused r => .refused r
  else .refused .illFormedInstance

/-- The state with this instruction stored where `step` fetches its next instruction. -/
def State.withFetchWord (s : State) (nbits w : Nat) : State := storeFetchWord s nbits w

end Sys2Proof.Machine
end

