-- ==== Sys2Proof/Machine/HostInterface.lean ====
section
/-!
DEFINITION. What the caller of the CORE can do between advances: reset
(spec/70_reset_and_hazards.md R360 to R363), the state snapshot (spec/10_state.md R40), the screen
query (spec/60_exceptions.md R346), the program-counter query (R348) and the result of an advance
(R328). The loading of bytes (R347) is `loadBytes`.
-/

namespace Sys2Proof.Machine

/-! ### Reset -/

/-- The values reset does not fix (R38, R360): "draws". R[0] of `regs` is not used. -/
structure ResetDraws where
  d : Byte
  t : Byte
  df : Bool
  regs : Vector Word 16
  screenBase : Word
  scroll : Byte
deriving DecidableEq, Repr

/-- The register part of reset: R[0] is cleared and the others are draws; Variant A preloads R[2]
(R360, R361). -/
def resetRegs (c : Config) (draws : ResetDraws) : Vector Word 16 :=
  match c.variant with
  | .a => (draws.regs.set 0 0).set 2 c.preloadR2
  | .b => draws.regs.set 0 0
  | .c => draws.regs.set 0 0

/-- What Variant A's reset preloads, and what the other variants leave (R361). -/
def preloaded {α : Type} (c : Config) (preload other : α) : α :=
  match c.variant with
  | .a => preload
  | .b => other
  | .c => other

/-- Reset of the bound instance (R360). RAM, the images and the host's record are not touched. -/
def resetState (draws : ResetDraws) (s : State) : State :=
  { s with
    regs := resetRegs s.cfg draws
    d := preloaded s.cfg s.cfg.preloadD draws.d
    df := draws.df
    p := preloaded s.cfg s.cfg.preloadP 0
    x := preloaded s.cfg s.cfg.preloadX 0
    t := draws.t
    ie := true
    q := false
    frameState := .bulk
    budget := s.cfg.bulkBudget
    screenEnabled := false
    screenBase := draws.screenBase
    scroll := draws.scroll
    curKey := none
    keyLatch := 0 }

/-- Binds a RAM buffer: RAM_SIZE becomes its size (R360, R363). -/
def bindRam (buffer : List Byte) (s : State) : State :=
  { s with cfg := { s.cfg with ramSize := buffer.length }, mem := ramOfBytes 0 buffer }

/-- `Reset(buffer?)` of an instance that has a RAM buffer (R360, R363). -/
def resetOp (draws : ResetDraws) (buffer : Option (List Byte)) (s : State) :
    Host.Outcome State Fault Refusal :=
  let s1 :=
    match buffer with
    | some bytes => bindRam bytes s
    | none => s
  if configWf s1.cfg then .next (resetState draws s1) else .refused .illFormedInstance

/-- The first reset of a new instance with these parameters: without a RAM buffer it is refused
(R363). `answers` are the answers fixed for the host's coming polls (log entry 5). -/
def firstReset (c : Config) (answers : List Bool) (draws : ResetDraws)
    (buffer : Option (List Byte)) : Host.Outcome State Fault Refusal :=
  match buffer with
  | some bytes => resetOp draws (some bytes) { State.reset with cfg := c, hostAnswers := answers }
  | none => .refused .noRamBuffer

/-! ### Queries -/

/-- The fields the snapshot exposes (10_state.md R40). -/
structure Snapshot where
  regs : Vector Word 16
  d : Byte
  df : Bool
  p : RegNum
  x : RegNum
  t : Byte
  ie : Bool
  q : Bool
  frameState : FrameState
  budget : Int
deriving DecidableEq, Repr

/-- The state snapshot (10_state.md R40). -/
def snapshot (s : State) : Snapshot where
  regs := s.regs
  d := s.d
  df := s.df
  p := s.p
  x := s.x
  t := s.t
  ie := s.ie
  q := s.q
  frameState := s.frameState
  budget := s.budget

/-- The Screen Pointer, `(screenBase + scroll) mod 2^16` (R322). -/
def screenPointer (s : State) : Word := s.screenBase + s.scroll.zeroExtend 16

/-- The screen query: the Screen Pointer, or "none" while the screen is disabled, and the scroll
offset (R346). -/
def screenQuery (s : State) : Option Word × Byte :=
  (if s.screenEnabled then some (screenPointer s) else none, s.scroll)

/-- The program-counter query: R[P] (R348). -/
def pcQuery (s : State) : Word := pc s

/-- What an advance that ended in this state returns to the caller (R328). -/
def advanceResult (s : State) : FrameState := s.frameState

/-- A video frame has just completed: Bulk was returned before and InterruptPreliminary is now
(R328). -/
def frameCompleted (before after : FrameState) : Bool :=
  before == .bulk && after == .interruptPreliminary

end Sys2Proof.Machine
end

