-- ==== Sys2Proof/Safety.lean ====
section
/-!
DEFINITION. The terms the statements use: what two states agree on, where an instruction stores, and
the invariant of the machine (spec/10_state.md R39).
-/

namespace Sys2Proof.Machine

/-! ### What two states agree on -/

/-- Every byte of memory reads as before. -/
def SameMemory (s t : State) : Prop := ∀ a : Word, readByte t a = readByte s a

/-- Every scratch register but `n` is as before. -/
def OtherRegsKept (s t : State) (n : RegNum) : Prop := ∀ m : RegNum, m ≠ n → getReg t m = getReg s m

/-- The memory of `t` is that of `s` after storing `v` at the address `a`: every address of the same
RAM byte reads as `v`, and every other address as before. Where `a` is no RAM nothing changes
(spec/20_memory.md R51, R57). -/
def StoredAt (s t : State) (a : Word) (v : Byte) : Prop :=
  (∀ (b : Word) (k : Nat), place s.cfg a = .ram k → place s.cfg b = .ram k → readByte t b = v) ∧
    ∀ b : Word, (∀ k : Nat, place s.cfg a = .ram k → place s.cfg b ≠ .ram k) →
      readByte t b = readByte s b

/-- The program counter of `t` is `target`, and nothing else differs from `s`. -/
def ContinuesAt (s t : State) (target : Word) : Prop :=
  pc t = target ∧ OtherRegsKept s t s.p ∧ t = { s with regs := t.regs } ∧ SameMemory s t

/-- The short-branch target of an operand byte at the program counter (spec/30_encoding.md R94),
counted in integers. -/
def pageTarget (s : State) (a : Byte) : Word :=
  BitVec.ofNat 16 ((pc s).toNat / 256 * 256 + a.toNat)

/-- `count` executions of one instruction, without a fetch between them. -/
def execTimes (i : Instr) : Nat → State → Host.Outcome State Fault Refusal
  | 0, s => .next s
  | count + 1, s =>
    match exec i s with
    | .next t => execTimes i count t
    | .fault r => .fault r
    | .refused r => .refused r

/-! ### Where an instruction stores -/

/-- The address an instruction stores to, in the state its execute phase starts in
(spec/20_memory.md R60). -/
def storeAddress (i : Instr) (s : State) : Option Word :=
  match i with
  | .str n => some (getReg s n)
  | .stxd => some (getReg s s.x)
  | .sav => some (getReg s s.x)
  | .inp _ => some (getReg s s.x)
  | .mark => some (getReg s 2)
  | _ => none

/-- The byte it stores there. -/
def storeValue (i : Instr) (s : State) : Byte :=
  match i with
  | .sav => s.t
  | .inp port => if port = 4 ∧ s.cfg.variant = .b then s.keyLatch else 0x00
  | .mark => packXP s.x s.p
  | _ => s.d

/-! ### The invariant -/

/-- The RAM buffer holds no byte at or above its size (spec/10_state.md R36). -/
def RamInRange (s : State) : Prop := ∀ c ∈ s.mem, c.1 < s.cfg.ramSize

/-- The latch is 0 to 15 in a select variant (spec/10_state.md R39). -/
def LatchLegal (s : State) : Prop := latchKind s.cfg.variant = .select → s.keyLatch.toNat < 16

/-- The budget is not negative and not above what its phase was entered with (spec/10_state.md R39,
spec/60_exceptions.md R313). -/
def BudgetLegal (s : State) : Prop :=
  0 ≤ s.budget ∧
    match s.frameState with
    | .bulk => s.budget ≤ s.cfg.bulkBudget
    | .interruptPreliminary => s.budget ≤ ipBudget

/-- A command the CORE may issue, with a parameter it may have (spec/60_exceptions.md R340, R345). -/
def EventLegal (e : HostEvent) : Prop :=
  match e.command with
  | .readKeyboard => e.parameter.toNat < 16
  | .updateOutputFlag => e.parameter.toNat ≤ 1
  | .frameSync => e.parameter = 0
  | .readSecondaryKey => e.parameter = 0
  | .updateDisplay => True
  | .setKeypadGroup => False

/-- What holds at every instruction boundary (spec/10_state.md R39). The widths of R39 are the types
of the fields. -/
structure Inv (s : State) : Prop where
  instanceOk : configWf s.cfg
  memCanonical : Memory.wf s.mem
  memInRange : RamInRange s
  latch : LatchLegal s
  budget : BudgetLegal s
  log : ∀ e ∈ s.hostLog, EventLegal e

end Sys2Proof.Machine
end

