-- ==== Sys2Proof/Certificates/Slice0/Obligations.lean ====
section
/-!
DEFINITION. The statements for the provers. Each docstring names the rules of spec/ a statement comes
from, and says where a clause is the model's own choice. `exec` starts where the execute phase does:
R[P] already addresses the byte after the opcode (spec/00_scope.md R13). A statement about an
instruction says that it answers a next state, what that state holds, and what it leaves alone.
The opcode map and the meanings of the opcodes are the spec's own decision D1, taken from general
knowledge of the CDP1802, with its decisions D3, D5 to D9, D11, D31 and D37 on single points (log
entry 9); every statement about them rests on it.
-/

open Sys2Proof Sys2Proof.Machine

/-! ### Encoding (30_encoding.md) -/

/-- Decoding the bytes of a well-formed instruction gives it back, whatever follows (R92 to R97). -/
def Obligations.DecodeInvertsEncode : Prop :=
  ∀ (i : Instr) (rest : List Byte), i.WellFormed = true →
    decode (encode i ++ rest) = .ok (i, rest)

/-- Every decoded instruction is well formed and its bytes are the ones it was decoded from
(R92 to R97). -/
def Obligations.EncodeInvertsDecode : Prop :=
  ∀ (bytes : List Byte) (i : Instr) (rest : List Byte), decode bytes = .ok (i, rest) →
    i.WellFormed = true ∧ bytes = encode i ++ rest

/-- Every opcode byte decodes when its operand bytes are there; the length is 1, 2 or 3 and comes from
the opcode byte alone; a list that ends too early is refused by name (R90, R98, R108; the refusal is
the decoder's own, for no fetch ever ends early). -/
def Obligations.OpcodeByteDecidesTheLength : Prop :=
  (∀ op : Byte, 1 ≤ opcodeLength op ∧ opcodeLength op ≤ 3) ∧
  (∀ (op : Byte) (rest : List Byte), opcodeLength op ≤ 1 + rest.length →
    ∃ i, decode (op :: rest) = .ok (i, (op :: rest).drop (opcodeLength op)) ∧
      (encode i).length = opcodeLength op) ∧
  (∀ (op : Byte) (rest : List Byte), 1 + rest.length < opcodeLength op →
    decode (op :: rest) = .error (.truncated op)) ∧
  decode [] = .error .noBytes

/-- The special cases of groups 0x0 and 0x6: 0x00 is IDL and 0x01 to 0x0F LDN, 0x60 is IRX, 0x61 to
0x67 OUT 1 to 7, 0x68 alone is unassigned, 0x69 to 0x6F INP 1 to 7 (R98, R99; that 0x68 is the one
unassigned byte is the spec's own decision D4, log entry 26). -/
def Obligations.GroupsZeroAndSixDecode : Prop :=
  ∀ op b1 b2 : Byte,
    (decodeOp op b1 b2 = .idl ↔ op = 0x00) ∧
    (∀ n : RegNum, decodeOp op b1 b2 = .ldn n ↔ op.toNat = n.toNat ∧ n ≠ 0) ∧
    (decodeOp op b1 b2 = .irx ↔ op = 0x60) ∧
    (∀ port : Port, decodeOp op b1 b2 = .out port ↔ op.toNat = 0x60 + port.toNat ∧ port ≠ 0) ∧
    (decodeOp op b1 b2 = .unassigned68 ↔ op = 0x68) ∧
    (∀ port : Port, decodeOp op b1 b2 = .inp port ↔ op.toNat = 0x68 + port.toNat ∧ port ≠ 0)

/-- A few words of the opcode map, written out from it (R97). -/
def Obligations.SomeWordsDecodeAsTheMapSays : Prop :=
  decode [0x00] = .ok (.idl, []) ∧
  decode [0x0F] = .ok (.ldn 15, []) ∧
  decode [0x3A, 0x04] = .ok (.bnz 0x04, []) ∧
  decode [0x67] = .ok (.out 7, []) ∧
  decode [0x69] = .ok (.inp 1, []) ∧
  decode [0x7C, 0x01] = .ok (.adci 0x01, []) ∧
  decode [0xC0, 0x12, 0x34] = .ok (.lbr 0x1234, []) ∧
  decode [0xDA] = .ok (.sep 10, []) ∧
  decode [0xF8, 0x7F] = .ok (.ldi 0x7F, []) ∧
  decode [0xFE] = .ok (.shl, [])

/-! ### The advance (30_encoding.md R95, 60_exceptions.md R310) -/

/-- An advance runs the instruction whose bytes stand at the program counter: R[P] moves past the
opcode byte, the instruction is executed in that state and answers a next state, and the frame
bookkeeping follows (R95, R310). -/
def Obligations.StepRunsTheDecodedInstruction : Prop :=
  ∀ (s : State) (i : Instr) (rest : List Byte), configWf s.cfg →
    decode [readByte s (pc s), readByte s (pc s + 1), readByte s (pc s + 2)] = .ok (i, rest) →
    i.WellFormed = true ∧
    ∃ t, exec i (setReg s s.p (getReg s s.p + 1)) = .next t ∧ step s = .next (frameTick t)

/-- An advance of a well-formed instance always ends in a next state, whatever the opcode byte and
whatever the state (R95 "never fails", 60_exceptions.md R300, R301). -/
def Obligations.EveryAdvanceEndsInANextState : Prop :=
  ∀ s : State, configWf s.cfg → ∃ t, step s = .next t

/-- An instance whose parameters break a constraint is refused: RAM_SIZE outside 1 to 65536, Variant
A's windows overlapping or leaving the address space, Variant C with less than 512 bytes of RAM or an
image too large (00_scope.md R7, R8). That the constraints of a variant's own parameters are asked of
that variant only is the model's choice (log entry 8). -/
def Obligations.IllFormedInstancesAreRefused : Prop :=
  ∀ s : State,
    (s.cfg.ramSize = 0 ∨ 65536 < s.cfg.ramSize ∨
      (s.cfg.variant = .a ∧
        (65536 < s.cfg.romABase + s.cfg.romAImage.length ∨ s.cfg.romABase < s.cfg.ramSize)) ∨
      (s.cfg.variant = .c ∧ (s.cfg.ramSize < 512 ∨ 4096 < s.cfg.romCImage.length + 512)) ↔
      step s = .refused .illFormedInstance)

/-- The invariant of R39 holds after every advance from a state in which it holds; the canonical form
of the memory and the legality of the recorded commands (R340) with it. Which variants have the
four-bit latch is the spec's own decision D14 (log entry 10). -/
def Obligations.EveryAdvanceKeepsTheInvariant : Prop :=
  ∀ s t : State, Inv s → step s = .next t → Inv t

/-- The reset state meets the invariant. Its instance and its draws are the model's choice (log
entries 1 to 4). -/
def Obligations.ResetMeetsTheInvariant : Prop := Inv State.reset

/-- A reset that supplies a RAM buffer meets the invariant for every draw and every buffer, when the
commands recorded before it are legal; a reset without a buffer keeps it (R39, R360, R363). Which
variants have the four-bit latch is the spec's own decision D14 (log entry 10). -/
def Obligations.EveryResetMeetsTheInvariant : Prop :=
  ∀ (draws : ResetDraws) (s t : State),
    (∀ bytes : List Byte, (∀ e ∈ s.hostLog, EventLegal e) →
      resetOp draws (some bytes) s = .next t → Inv t) ∧
    (Inv s → resetOp draws none s = .next t → Inv t)

/-! ### Memory (20_memory.md) -/

/-- Variant A's map (R52): RAM below RAM_SIZE, the image in its window, 0x00 elsewhere; a write outside
RAM is discarded. -/
def Obligations.VariantAReadsRamImageOrZero : Prop :=
  ∀ (s : State) (a : Word), s.cfg.variant = .a →
    (a.toNat < s.cfg.ramSize → readByte s a = ramRead s.mem a.toNat ∧
      ∀ v, writeByte s a v = { s with mem := ramWrite s.mem a.toNat v }) ∧
    (∀ j (h : j < s.cfg.romAImage.length), s.cfg.ramSize ≤ a.toNat →
      a.toNat = s.cfg.romABase + j →
      readByte s a = s.cfg.romAImage[j] ∧ ∀ v, writeByte s a v = s) ∧
    (s.cfg.ramSize ≤ a.toNat →
      a.toNat < s.cfg.romABase ∨ s.cfg.romABase + s.cfg.romAImage.length ≤ a.toNat →
      readByte s a = 0x00 ∧ ∀ v, writeByte s a v = s)

/-- Variant B's map (R53): the address modulo the least power of two that covers RAM_SIZE is a RAM
index, or unmapped: it reads 0x00 and discards writes. That an index equal to RAM_SIZE is outside is
the spec's own decision D21 (log entry 34). -/
def Obligations.VariantBReadsRamUnderItsMask : Prop :=
  ∀ (s : State) (a : Word) (k : Nat), s.cfg.variant = .b → s.cfg.ramSize ≤ 65536 →
    (∀ j : Nat, s.cfg.ramSize ≤ 2 ^ j ↔ k ≤ j) →
    (a.toNat % 2 ^ k < s.cfg.ramSize → readByte s a = ramRead s.mem (a.toNat % 2 ^ k) ∧
      ∀ v, writeByte s a v = { s with mem := ramWrite s.mem (a.toNat % 2 ^ k) v }) ∧
    (s.cfg.ramSize ≤ a.toNat % 2 ^ k → readByte s a = 0x00 ∧ ∀ v, writeByte s a v = s)

/-- Variant C's map (R54): in the 12-bit window the image, then 512 bytes of RAM from index 0, then
0xFF; a write outside RAM is discarded. The RAM index is the spec's own decision D22 (log entry 34). -/
def Obligations.VariantCReadsItsWindow : Prop :=
  ∀ (s : State) (a : Word), s.cfg.variant = .c →
    (∀ h : a.toNat % 4096 < s.cfg.romCImage.length,
      readByte s a = s.cfg.romCImage[a.toNat % 4096] ∧ ∀ v, writeByte s a v = s) ∧
    (∀ j < 512, a.toNat % 4096 = s.cfg.romCImage.length + j → readByte s a = ramRead s.mem j ∧
      ∀ v, writeByte s a v = { s with mem := ramWrite s.mem j v }) ∧
    (s.cfg.romCImage.length + 512 ≤ a.toNat % 4096 →
      readByte s a = 0xFF ∧ ∀ v, writeByte s a v = s)

/-- A read outside RAM and the image gives 0x00 in Variants A and B and 0xFF in Variant C (R55). -/
def Obligations.UnmappedReadsGiveTheSentinel : Prop :=
  ∀ (s : State) (a : Word), place s.cfg a = .unmapped →
    (s.cfg.variant = .a → readByte s a = 0x00) ∧
    (s.cfg.variant = .b → readByte s a = 0x00) ∧
    (s.cfg.variant = .c → readByte s a = 0xFF)

/-- A byte written to RAM reads back at every address of that RAM byte, until another write to it;
every other address reads as before (R57, whose sentence on aliases the spec derives from R53 and
R54). A write to an address that is no RAM changes nothing (R51). -/
def Obligations.RamReadsBackWhatWasWritten : Prop :=
  ∀ (s : State) (a : Word) (v : Byte),
    (∀ k, place s.cfg a = .ram k →
      readByte (writeByte s a v) a = v ∧
      (∀ b, place s.cfg b = .ram k → readByte (writeByte s a v) b = v) ∧
      (∀ b, place s.cfg b ≠ .ram k → readByte (writeByte s a v) b = readByte s b) ∧
      (∀ (b : Word) (w : Byte), place s.cfg b ≠ .ram k →
        readByte (writeByte (writeByte s a v) b w) a = v)) ∧
    ((∀ k, place s.cfg a ≠ .ram k) → writeByte s a v = s) ∧
    { writeByte s a v with mem := s.mem } = s

/-- The read-only images never change: no write, no advance, no load and no reset changes what an
address of an image reads as (R56). -/
def Obligations.ReadOnlyImagesAreConstant : Prop :=
  ∀ (s t : State) (a : Word) (i : Nat), place s.cfg a = .rom i →
    (∀ (b : Word) (v : Byte), readByte (writeByte s b v) a = readByte s a) ∧
    (step s = .next t → readByte t a = readByte s a) ∧
    (∀ (b : Word) (data : List Byte), readByte (loadBytes s b data) a = readByte s a) ∧
    (∀ draws : ResetDraws, resetOp draws none s = .next t → readByte t a = readByte s a) ∧
    (∀ (draws : ResetDraws) (bytes : List Byte), resetOp draws (some bytes) s = .next t →
      t.cfg.romAImage = s.cfg.romAImage ∧ t.cfg.romCImage = s.cfg.romCImage ∧
        readByte t a = readByte s a)

/-- An advance changes memory only by the store of its instruction (R61, R60): the byte stored is
STR's and STXD's D, SAV's T, MARK's X:P or INP's input, at the address the instruction computes in
the state its execute phase starts in; every address outside that RAM byte reads as before, and the
frame bookkeeping writes no memory (60_exceptions.md R317, R321). That INP 4 stores the latch in
Variant B only is the spec's own decision D14 (log entry 10). -/
def Obligations.AnAdvanceStoresOnlyItsInstructionsByte : Prop :=
  ∀ s t : State, step s = .next t →
    (∀ a, storeAddress (fetchInstr s) (afterFetch s) = some a →
      StoredAt s t a (storeValue (fetchInstr s) (afterFetch s))) ∧
    (storeAddress (fetchInstr s) (afterFetch s) = none → SameMemory s t)

/-- A load of bytes goes through the write policy, byte by byte, at addresses modulo 2^16, and
changes RAM only (60_exceptions.md R347; the wrap is the spec's own decision D32, log entry 24): a RAM
byte reads as the last byte loaded to it, and every other address reads as before. -/
def Obligations.LoadedBytesReadBack : Prop :=
  ∀ (s : State) (a : Word) (data : List Byte),
    (∀ (j : Nat) (h : j < data.length) (k : Nat), place s.cfg (a + BitVec.ofNat 16 j) = .ram k →
      (∀ l, j < l → l < data.length → place s.cfg (a + BitVec.ofNat 16 l) ≠ .ram k) →
      ∀ b, place s.cfg b = .ram k → readByte (loadBytes s a data) b = data[j]) ∧
    (∀ b, (∀ j < data.length, ∀ k, place s.cfg (a + BitVec.ofNat 16 j) = .ram k →
        place s.cfg b ≠ .ram k) → readByte (loadBytes s a data) b = readByte s b) ∧
    { loadBytes s a data with mem := s.mem } = s

/-! ### Memory reference (40_memory_reference.md) -/

/-- LDN, LDX (R120, R122): D takes one byte, and nothing else changes. LDA, LDXA (R121, R123): the
register moves past it too. LDI (R124): D takes the operand byte, and R[P] moves past it. Through R[P] the
post-incrementing loads are LDI of the byte after the opcode, and through R[X] LDN and LDA are LDX and
LDXA. -/
def Obligations.LoadsPutOneByteInD : Prop :=
  ∀ (s : State) (n : RegNum) (imm : Byte),
    (∃ t, exec (.ldn n) s = .next t ∧ t.d = readByte s (getReg s n) ∧
      t = { s with d := t.d } ∧ SameMemory s t) ∧
    (∃ t, exec (.lda n) s = .next t ∧ t.d = readByte s (getReg s n) ∧
      getReg t n = getReg s n + 1 ∧ OtherRegsKept s t n ∧
      t = { s with d := t.d, regs := t.regs } ∧ SameMemory s t) ∧
    (∃ t, exec .ldx s = .next t ∧ t.d = readByte s (getReg s s.x) ∧
      t = { s with d := t.d } ∧ SameMemory s t) ∧
    (∃ t, exec .ldxa s = .next t ∧ t.d = readByte s (getReg s s.x) ∧
      getReg t s.x = getReg s s.x + 1 ∧ OtherRegsKept s t s.x ∧
      t = { s with d := t.d, regs := t.regs } ∧ SameMemory s t) ∧
    (∃ t, exec (.ldi imm) s = .next t ∧ t.d = imm ∧ pc t = pc s + 1 ∧
      OtherRegsKept s t s.p ∧ t = { s with d := t.d, regs := t.regs } ∧ SameMemory s t) ∧
    exec (.lda s.p) s = exec (.ldi (readByte s (pc s))) s ∧
    (s.x = s.p → exec .ldxa s = exec (.ldi (readByte s (pc s))) s) ∧
    exec (.ldn s.x) s = exec .ldx s ∧
    exec (.lda s.x) s = exec .ldxa s

/-- STR (R125), STXD (R126) and SAV (45_control.md R255) store one byte, D or T, through the write
policy; STXD also decrements R[X], after the store. -/
def Obligations.StoresWriteOneByte : Prop :=
  ∀ (s : State) (n : RegNum),
    (∃ t, exec (.str n) s = .next t ∧ StoredAt s t (getReg s n) s.d ∧
      t = { s with mem := t.mem }) ∧
    (∃ t, exec .stxd s = .next t ∧ StoredAt s t (getReg s s.x) s.d ∧
      getReg t s.x = getReg s s.x - 1 ∧ OtherRegsKept s t s.x ∧
      t = { s with mem := t.mem, regs := t.regs }) ∧
    (∃ t, exec .sav s = .next t ∧ StoredAt s t (getReg s s.x) s.t ∧
      t = { s with mem := t.mem })

/-! ### Register operations (41_register_operations.md) -/

/-- INC (R140), DEC (R141) and IRX (R142) count one register modulo 65536; every other register and
all other state is unchanged. -/
def Obligations.CountingInstructionsWrap : Prop :=
  ∀ (s : State) (n : RegNum),
    (∃ t, exec (.inc n) s = .next t ∧ (getReg t n).toNat = ((getReg s n).toNat + 1) % 65536 ∧
      OtherRegsKept s t n ∧ t = { s with regs := t.regs } ∧ SameMemory s t) ∧
    (∃ t, exec (.dec n) s = .next t ∧ (getReg t n).toNat = ((getReg s n).toNat + 65535) % 65536 ∧
      OtherRegsKept s t n ∧ t = { s with regs := t.regs } ∧ SameMemory s t) ∧
    (∃ t, exec .irx s = .next t ∧ (getReg t s.x).toNat = ((getReg s s.x).toNat + 1) % 65536 ∧
      OtherRegsKept s t s.x ∧ t = { s with regs := t.regs } ∧ SameMemory s t)

/-- GLO, GHI copy a byte of a register to D; PLO, PHI replace one byte of a register by D and keep
the other (R143 to R146). -/
def Obligations.RegisterBytesMoveThroughD : Prop :=
  ∀ (s : State) (n : RegNum),
    (∃ t, exec (.glo n) s = .next t ∧ t.d.toNat = (getReg s n).toNat % 256 ∧
      t = { s with d := t.d } ∧ SameMemory s t) ∧
    (∃ t, exec (.ghi n) s = .next t ∧ t.d.toNat = (getReg s n).toNat / 256 ∧
      t = { s with d := t.d } ∧ SameMemory s t) ∧
    (∃ t, exec (.plo n) s = .next t ∧
      (getReg t n).toNat = (getReg s n).toNat / 256 * 256 + s.d.toNat ∧
      OtherRegsKept s t n ∧ t = { s with regs := t.regs } ∧ SameMemory s t) ∧
    (∃ t, exec (.phi n) s = .next t ∧
      (getReg t n).toNat = s.d.toNat * 256 + (getReg s n).toNat % 256 ∧
      OtherRegsKept s t n ∧ t = { s with regs := t.regs } ∧ SameMemory s t)

/-! ### Logic and shifts (42_logic.md) -/

/-- OR, XOR, AND with M(R[X]) (R160, R162, R164): each bit of D is the combination; only D
changes, DF in particular does not. ORI, XRI, ANI (R161, R163, R165): the same with the operand byte,
and R[P] moves past it. -/
def Obligations.LogicIsBitwise : Prop :=
  ∀ (s : State) (imm : Byte),
    (∃ t, exec .or s = .next t ∧ t = { s with d := t.d } ∧ SameMemory s t ∧
      ∀ j, t.d.getLsbD j = ((readByte s (getReg s s.x)).getLsbD j || s.d.getLsbD j)) ∧
    (∃ t, exec .xor s = .next t ∧ t = { s with d := t.d } ∧ SameMemory s t ∧
      ∀ j, t.d.getLsbD j = ((readByte s (getReg s s.x)).getLsbD j ^^ s.d.getLsbD j)) ∧
    (∃ t, exec .and s = .next t ∧ t = { s with d := t.d } ∧ SameMemory s t ∧
      ∀ j, t.d.getLsbD j = ((readByte s (getReg s s.x)).getLsbD j && s.d.getLsbD j)) ∧
    (∃ t, exec (.ori imm) s = .next t ∧ pc t = pc s + 1 ∧ OtherRegsKept s t s.p ∧
      t = { s with d := t.d, regs := t.regs } ∧ SameMemory s t ∧
      ∀ j, t.d.getLsbD j = (imm.getLsbD j || s.d.getLsbD j)) ∧
    (∃ t, exec (.xri imm) s = .next t ∧ pc t = pc s + 1 ∧ OtherRegsKept s t s.p ∧
      t = { s with d := t.d, regs := t.regs } ∧ SameMemory s t ∧
      ∀ j, t.d.getLsbD j = (imm.getLsbD j ^^ s.d.getLsbD j)) ∧
    (∃ t, exec (.ani imm) s = .next t ∧ pc t = pc s + 1 ∧ OtherRegsKept s t s.p ∧
      t = { s with d := t.d, regs := t.regs } ∧ SameMemory s t ∧
      ∀ j, t.d.getLsbD j = (imm.getLsbD j && s.d.getLsbD j))

/-- SHR, SHRC, SHL, SHLC (R170 to R174) in integers: D is halved or doubled, a 0 or the old DF comes
in, and DF is the bit that went out; only D and DF change. -/
def Obligations.ShiftsMoveOneBitThroughDF : Prop :=
  ∀ s : State,
    (∃ t, exec .shr s = .next t ∧ t.d.toNat = s.d.toNat / 2 ∧
      t.df = decide (s.d.toNat % 2 = 1) ∧ t = { s with d := t.d, df := t.df } ∧ SameMemory s t) ∧
    (∃ t, exec .shrc s = .next t ∧ t.d.toNat = 128 * s.df.toNat + s.d.toNat / 2 ∧
      t.df = decide (s.d.toNat % 2 = 1) ∧ t = { s with d := t.d, df := t.df } ∧ SameMemory s t) ∧
    (∃ t, exec .shl s = .next t ∧ t.d.toNat = 2 * s.d.toNat % 256 ∧
      t.df = decide (128 ≤ s.d.toNat) ∧ t = { s with d := t.d, df := t.df } ∧ SameMemory s t) ∧
    (∃ t, exec .shlc s = .next t ∧ t.d.toNat = 2 * s.d.toNat % 256 + s.df.toNat ∧
      t.df = decide (128 ≤ s.d.toNat) ∧ t = { s with d := t.d, df := t.df } ∧ SameMemory s t)

/-- D and DF form a 9-bit ring: nine ring shifts of one direction restore the state, and fewer, at
least one, do not restore every state (R170, R172, R174). -/
def Obligations.NineRingShiftsRestoreTheState : Prop :=
  (∀ s : State, execTimes .shrc 9 s = .next s ∧ execTimes .shlc 9 s = .next s) ∧
  ∀ k : Nat, 0 < k → k < 9 →
    ∃ s : State, execTimes .shrc k s ≠ .next s ∧ execTimes .shlc k s ≠ .next s

/-! ### Arithmetic (43_arithmetic.md) -/

/-- ADD, ADC (R181, R183) and ADI, ADCI (R182, R184): the 9-bit sum of the operand, D and, in the
carry forms, DF; D takes its low byte and DF its carry. -/
def Obligations.AdditionsGiveSumAndCarry : Prop :=
  ∀ (s : State) (imm : Byte),
    (∃ t, exec .add s = .next t ∧ t = { s with d := t.d, df := t.df } ∧ SameMemory s t ∧
      t.d.toNat + 256 * t.df.toNat = (readByte s (getReg s s.x)).toNat + s.d.toNat) ∧
    (∃ t, exec .adc s = .next t ∧ t = { s with d := t.d, df := t.df } ∧ SameMemory s t ∧
      t.d.toNat + 256 * t.df.toNat =
        (readByte s (getReg s s.x)).toNat + s.d.toNat + s.df.toNat) ∧
    (∃ t, exec (.adi imm) s = .next t ∧ pc t = pc s + 1 ∧ OtherRegsKept s t s.p ∧
      t = { s with d := t.d, df := t.df, regs := t.regs } ∧ SameMemory s t ∧
      t.d.toNat + 256 * t.df.toNat = imm.toNat + s.d.toNat) ∧
    (∃ t, exec (.adci imm) s = .next t ∧ pc t = pc s + 1 ∧ OtherRegsKept s t s.p ∧
      t = { s with d := t.d, df := t.df, regs := t.regs } ∧ SameMemory s t ∧
      t.d.toNat + 256 * t.df.toNat = imm.toNat + s.d.toNat + s.df.toNat)

/-- SD, SDB (R185, R187) and SM, SMB (R189, R191): the difference as an integer; DF is 1 when there is
no borrow, and otherwise the result is 256 too large. SDI, SDBI (R186, R188), SMI, SMBI (R190,
R192): the same with the operand byte, and R[P] moves past it. -/
def Obligations.SubtractionsGiveDifferenceAndNoBorrow : Prop :=
  ∀ (s : State) (imm : Byte),
    (∃ t, exec .sd s = .next t ∧ t = { s with d := t.d, df := t.df } ∧ SameMemory s t ∧
      (t.d.toNat : Int) - 256 * (1 - t.df.toNat) =
        (readByte s (getReg s s.x)).toNat - s.d.toNat) ∧
    (∃ t, exec .sdb s = .next t ∧ t = { s with d := t.d, df := t.df } ∧ SameMemory s t ∧
      (t.d.toNat : Int) - 256 * (1 - t.df.toNat) =
        (readByte s (getReg s s.x)).toNat - s.d.toNat - (1 - s.df.toNat)) ∧
    (∃ t, exec .sm s = .next t ∧ t = { s with d := t.d, df := t.df } ∧ SameMemory s t ∧
      (t.d.toNat : Int) - 256 * (1 - t.df.toNat) =
        s.d.toNat - (readByte s (getReg s s.x)).toNat) ∧
    (∃ t, exec .smb s = .next t ∧ t = { s with d := t.d, df := t.df } ∧ SameMemory s t ∧
      (t.d.toNat : Int) - 256 * (1 - t.df.toNat) =
        s.d.toNat - (readByte s (getReg s s.x)).toNat - (1 - s.df.toNat)) ∧
    (∃ t, exec (.sdi imm) s = .next t ∧ pc t = pc s + 1 ∧ OtherRegsKept s t s.p ∧
      t = { s with d := t.d, df := t.df, regs := t.regs } ∧ SameMemory s t ∧
      (t.d.toNat : Int) - 256 * (1 - t.df.toNat) = imm.toNat - s.d.toNat) ∧
    (∃ t, exec (.sdbi imm) s = .next t ∧ pc t = pc s + 1 ∧ OtherRegsKept s t s.p ∧
      t = { s with d := t.d, df := t.df, regs := t.regs } ∧ SameMemory s t ∧
      (t.d.toNat : Int) - 256 * (1 - t.df.toNat) = imm.toNat - s.d.toNat - (1 - s.df.toNat)) ∧
    (∃ t, exec (.smi imm) s = .next t ∧ pc t = pc s + 1 ∧ OtherRegsKept s t s.p ∧
      t = { s with d := t.d, df := t.df, regs := t.regs } ∧ SameMemory s t ∧
      (t.d.toNat : Int) - 256 * (1 - t.df.toNat) = s.d.toNat - imm.toNat) ∧
    (∃ t, exec (.smbi imm) s = .next t ∧ pc t = pc s + 1 ∧ OtherRegsKept s t s.p ∧
      t = { s with d := t.d, df := t.df, regs := t.regs } ∧ SameMemory s t ∧
      (t.d.toNat : Int) - 256 * (1 - t.df.toNat) = s.d.toNat - imm.toNat - (1 - s.df.toNat))

/-- A subtraction is an addition of the complement, with the same D and DF (R180). -/
def Obligations.SubtractionIsAdditionOfTheComplement : Prop :=
  ∀ (a b : Byte) (c : Bool), subWithBorrow a b c = addWithCarry a (b ^^^ 0xFF) c

/-! ### Branches and skips (44_branch.md) -/

/-- BR, BQ, BZ, BDF, BNQ, BNZ, BNF (R200 to R204, R210 to R212): when the condition holds, execution
continues in the page of the operand byte, and otherwise after it; nothing but R[P] changes. -/
def Obligations.ShortBranchesOnStateFlags : Prop :=
  ∀ (s : State) (a : Byte),
    (∃ t, exec (.br a) s = .next t ∧ ContinuesAt s t (pageTarget s a)) ∧
    (∃ t, exec (.bq a) s = .next t ∧
      ContinuesAt s t (if s.q = true then pageTarget s a else pc s + 1)) ∧
    (∃ t, exec (.bz a) s = .next t ∧
      ContinuesAt s t (if s.d = 0 then pageTarget s a else pc s + 1)) ∧
    (∃ t, exec (.bdf a) s = .next t ∧
      ContinuesAt s t (if s.df = true then pageTarget s a else pc s + 1)) ∧
    (∃ t, exec (.bnq a) s = .next t ∧
      ContinuesAt s t (if s.q = true then pc s + 1 else pageTarget s a)) ∧
    (∃ t, exec (.bnz a) s = .next t ∧
      ContinuesAt s t (if s.d = 0 then pc s + 1 else pageTarget s a)) ∧
    (∃ t, exec (.bnf a) s = .next t ∧
      ContinuesAt s t (if s.df = true then pc s + 1 else pageTarget s a))

/-- Flag 1 is always asserted and flag 2 never, in every variant and without a command to the host
(46_io.md R292; flag 2 is the spec's own decision D10, log entry 17), so B1 and BN2 are always taken
and BN1 and B2 never (R205, R206, R213, R214). -/
def Obligations.FlagOneIsAssertedAndFlagTwoIsNot : Prop :=
  ∀ (s : State) (a : Byte),
    testFlag s .ef1 = (true, s) ∧ testFlag s .ef2 = (false, s) ∧
    (∃ t, exec (.b1 a) s = .next t ∧ ContinuesAt s t (pageTarget s a)) ∧
    (∃ t, exec (.bn1 a) s = .next t ∧ ContinuesAt s t (pc s + 1)) ∧
    (∃ t, exec (.b2 a) s = .next t ∧ ContinuesAt s t (pc s + 1)) ∧
    (∃ t, exec (.bn2 a) s = .next t ∧ ContinuesAt s t (pageTarget s a))

/-- B3 and BN3 without a host command: in Variant B flag 3 is "a key was sampled" (46_io.md R290);
in Variant A, where R[P] and the latch are the patch's, it is the patch's value (R291). That the patch
compares R[P] after the fetch is the spec's own decision D26, and that it compares the whole eight-bit
latch is read from R7 (log entry 19); which variant has the cached key and which the patch is the
spec's own decision D14 (log entry 10). -/
def Obligations.FlagThreeCachedOrPatched : Prop :=
  ∀ (s : State) (a : Byte),
    (s.cfg.variant = .b →
      (∃ t, exec (.b3 a) s = .next t ∧
        ContinuesAt s t (if s.curKey = none then pc s + 1 else pageTarget s a)) ∧
      (∃ t, exec (.bn3 a) s = .next t ∧
        ContinuesAt s t (if s.curKey = none then pageTarget s a else pc s + 1))) ∧
    (s.cfg.variant = .a → pc s = s.cfg.ef3PatchPc → s.keyLatch = s.cfg.ef3PatchLatch →
      (∃ t, exec (.b3 a) s = .next t ∧
        ContinuesAt s t (if s.cfg.ef3PatchValue = true then pageTarget s a else pc s + 1)) ∧
      (∃ t, exec (.bn3 a) s = .next t ∧
        ContinuesAt s t (if s.cfg.ef3PatchValue = true then pc s + 1 else pageTarget s a)))

/-- B3 and BN3 with a live keyboard (46_io.md R290, R291): in Variant C, and in Variant A away from
the patch, the host is asked once for the key of the latch, and its answer decides. The answer is the
next one fixed in the state or, where none is, the free value (60_exceptions.md R341; the two
forms of an answer are the model's, log entry 5). That "away from the patch" compares R[P] after the
fetch is the spec's own decision D26, and that it compares the whole eight-bit latch is read from R7
(log entry 19); which variants have the live keyboard and which the patch is the spec's own decision
D14 (log entry 10). -/
def Obligations.FlagThreeLiveAsksTheHostOnce : Prop :=
  ∀ (s : State) (a : Byte),
    (s.cfg.variant = .c ∨
      (s.cfg.variant = .a ∧ (pc s ≠ s.cfg.ef3PatchPc ∨ s.keyLatch ≠ s.cfg.ef3PatchLatch))) →
    ∃ (answer : Bool) (t u : State),
      (∀ (b : Bool) (rest : List Bool), s.hostAnswers = b :: rest → answer = b) ∧
      (s.hostAnswers = [] →
        answer = Config.hostAnswer .readKeyboard s.keyLatch s.hostLog.length) ∧
      exec (.b3 a) s = .next t ∧ exec (.bn3 a) s = .next u ∧
      pc t = (if answer = true then pageTarget s a else pc s + 1) ∧
      pc u = (if answer = true then pc s + 1 else pageTarget s a) ∧
      ∀ v ∈ [t, u], OtherRegsKept s v s.p ∧ SameMemory s v ∧
        v = { s with
          regs := v.regs
          hostLog := { command := .readKeyboard, parameter := s.keyLatch } :: s.hostLog
          hostAnswers := s.hostAnswers.tail }

/-- B4 and BN4 (R208, R216; 46_io.md R293): the host is asked once for the secondary key, with
parameter 0, and flag 4 is asserted while it is not pressed. The answer is as for flag 3 (log
entry 5). That every test asks the host anew is the spec's own decision D34 (log entry 17). -/
def Obligations.FlagFourIsTheInverseOfTheSecondaryKey : Prop :=
  ∀ (s : State) (a : Byte),
    ∃ (pressed : Bool) (t u : State),
      (∀ (b : Bool) (rest : List Bool), s.hostAnswers = b :: rest → pressed = b) ∧
      (s.hostAnswers = [] →
        pressed = Config.hostAnswer .readSecondaryKey 0 s.hostLog.length) ∧
      exec (.b4 a) s = .next t ∧ exec (.bn4 a) s = .next u ∧
      pc t = (if pressed = true then pc s + 1 else pageTarget s a) ∧
      pc u = (if pressed = true then pageTarget s a else pc s + 1) ∧
      ∀ v ∈ [t, u], OtherRegsKept s v s.p ∧ SameMemory s v ∧
        v = { s with
          regs := v.regs
          hostLog := { command := .readSecondaryKey, parameter := 0 } :: s.hostLog
          hostAnswers := s.hostAnswers.tail }

/-- LBR, LBQ, LBZ, LBDF, LBNQ, LBNZ, LBNF (R220, R222 to R225, R231 to R233): the whole target, or
past the two operand bytes; nothing but R[P] changes. -/
def Obligations.LongBranchesOnStateFlags : Prop :=
  ∀ (s : State) (w : Word),
    (∃ t, exec (.lbr w) s = .next t ∧ ContinuesAt s t w) ∧
    (∃ t, exec (.lbq w) s = .next t ∧ ContinuesAt s t (if s.q = true then w else pc s + 2)) ∧
    (∃ t, exec (.lbz w) s = .next t ∧ ContinuesAt s t (if s.d = 0 then w else pc s + 2)) ∧
    (∃ t, exec (.lbdf w) s = .next t ∧ ContinuesAt s t (if s.df = true then w else pc s + 2)) ∧
    (∃ t, exec (.lbnq w) s = .next t ∧ ContinuesAt s t (if s.q = true then pc s + 2 else w)) ∧
    (∃ t, exec (.lbnz w) s = .next t ∧ ContinuesAt s t (if s.d = 0 then pc s + 2 else w)) ∧
    (∃ t, exec (.lbnf w) s = .next t ∧ ContinuesAt s t (if s.df = true then pc s + 2 else w))

/-- The long skips (R221, R227 to R230, R234 to R237) pass over two bytes when their condition holds
and otherwise change nothing; SKP (R209) passes over one. -/
def Obligations.SkipsPassOverBytes : Prop :=
  ∀ s : State,
    (∃ t, exec .skp s = .next t ∧ ContinuesAt s t (pc s + 1)) ∧
    (∃ t, exec .lskp s = .next t ∧ ContinuesAt s t (pc s + 2)) ∧
    (∃ t, exec .lsnq s = .next t ∧ ContinuesAt s t (if s.q = true then pc s else pc s + 2)) ∧
    (∃ t, exec .lsnz s = .next t ∧ ContinuesAt s t (if s.d = 0 then pc s else pc s + 2)) ∧
    (∃ t, exec .lsnf s = .next t ∧ ContinuesAt s t (if s.df = true then pc s else pc s + 2)) ∧
    (∃ t, exec .lsie s = .next t ∧ ContinuesAt s t (if s.ie = true then pc s + 2 else pc s)) ∧
    (∃ t, exec .lsq s = .next t ∧ ContinuesAt s t (if s.q = true then pc s + 2 else pc s)) ∧
    (∃ t, exec .lsz s = .next t ∧ ContinuesAt s t (if s.d = 0 then pc s + 2 else pc s)) ∧
    (∃ t, exec .lsdf s = .next t ∧ ContinuesAt s t (if s.df = true then pc s + 2 else pc s))

/-! ### Control (45_control.md) -/

/-- NOP (44_branch.md R226) and the unassigned byte 0x68 (R259) do nothing beyond the fetch; IDL
(R250) moves the program counter back onto itself and changes nothing else. The clause on 0x68 is about
the CORE (decision D4, log entry 26); what the real CDP1802 does for it is not specified (log entry
35). -/
def Obligations.NopAndIdleChangeAtMostTheProgramCounter : Prop :=
  ∀ s : State,
    exec .nop s = .next s ∧ exec .unassigned68 s = .next s ∧
    (∃ t, exec .idl s = .next t ∧ ContinuesAt s t (pc s - 1)) ∧
    exec .idl (afterFetch s) = .next s

/-- SEP (R251) and SEX (R252) write P and X and nothing else: the next fetch is at R[N] as it
stands. -/
def Obligations.SepAndSexSelectARegister : Prop :=
  ∀ (s : State) (n : RegNum),
    (∃ t, exec (.sep n) s = .next t ∧ t.p = n ∧ pc t = getReg s n ∧
      t = { s with p := t.p } ∧ SameMemory s t) ∧
    (∃ t, exec (.sex n) s = .next t ∧ t.x = n ∧ pc t = pc s ∧
      t = { s with x := t.x } ∧ SameMemory s t)

/-- SEQ (R253) and REQ (R254) write Q and send its new value to the host, also when Q already had
it (46_io.md R281). -/
def Obligations.SeqAndReqWriteQAndTellTheHost : Prop :=
  ∀ s : State,
    (∃ t, exec .seq s = .next t ∧ SameMemory s t ∧
      t = { s with q := true, hostLog := { command := .updateOutputFlag, parameter := 1 } :: s.hostLog }) ∧
    (∃ t, exec .req s = .next t ∧ SameMemory s t ∧
      t = { s with q := false, hostLog := { command := .updateOutputFlag, parameter := 0 } :: s.hostLog })

/-- MARK (R256): T is X:P, also stored at R[2]; X takes P; R[2] is decremented. -/
def Obligations.MarkSavesXAndP : Prop :=
  ∀ s : State, ∃ t, exec .mark s = .next t ∧
    t.t.toNat = 16 * s.x.toNat + s.p.toNat ∧ StoredAt s t (getReg s 2) t.t ∧
    t.x = s.p ∧ getReg t 2 = getReg s 2 - 1 ∧ OtherRegsKept s t 2 ∧
    t = { s with t := t.t, x := t.x, regs := t.regs, mem := t.mem }

/-- RET (R257) and DIS (R258): X and P are the two halves of M(R[X]), the R[X] of the X before moves
past it, and IE becomes 1 or 0. -/
def Obligations.RetAndDisRestoreXAndP : Prop :=
  ∀ s : State,
    (∃ t, exec .ret s = .next t ∧
      t.x.toNat = (readByte s (getReg s s.x)).toNat / 16 ∧
      t.p.toNat = (readByte s (getReg s s.x)).toNat % 16 ∧ t.ie = true ∧
      getReg t s.x = getReg s s.x + 1 ∧ OtherRegsKept s t s.x ∧
      t = { s with x := t.x, p := t.p, ie := t.ie, regs := t.regs } ∧ SameMemory s t) ∧
    (∃ t, exec .dis s = .next t ∧
      t.x.toNat = (readByte s (getReg s s.x)).toNat / 16 ∧
      t.p.toNat = (readByte s (getReg s s.x)).toNat % 16 ∧ t.ie = false ∧
      getReg t s.x = getReg s s.x + 1 ∧ OtherRegsKept s t s.x ∧
      t = { s with x := t.x, p := t.p, ie := t.ie, regs := t.regs } ∧ SameMemory s t)

/-- RET undoes an interrupt delivery (60_exceptions.md R319): a handler that stores T by SAV with R[2]
in RAM and then executes RET has X, P and IE = 1 as the interrupted program had them, and the
interrupted program counter register is untouched unless it is R[2]. -/
def Obligations.ReturnUndoesTheInterrupt : Prop :=
  ∀ (s : State) (k : Nat), s.ie = true → place s.cfg (getReg s 2) = .ram k →
    ∃ u t, exec .sav (deliverInterrupt s) = .next u ∧ exec .ret u = .next t ∧
      t.x = s.x ∧ t.p = s.p ∧ t.ie = s.ie ∧ t.d = s.d ∧ t.df = s.df ∧
      getReg t 2 = getReg s 2 + 1 ∧ OtherRegsKept s t 2

/-! ### Input and output (46_io.md) -/

/-- OUT 1 to 7 (R289): R[X] moves past the byte M(R[X]), and the port acts on it: port 1 disables the
screen (R286), port 2 sets the select latch in Variants A and C (R282), port 4 updates the display in
Variant B (R284), and every other port does nothing (R285). That port 2 acts in Variants A and C and
port 4 in Variant B is the spec's own decision D14 (log entry 10); that port 2 takes the low four bits
is D9, and that an unused port still moves R[X] is D37 (log entry 9). -/
def Obligations.OutputActsOnItsPort : Prop :=
  ∀ (s : State) (port : Port), port ≠ 0 →
    ∃ t, exec (.out port) s = .next t ∧
      getReg t s.x = getReg s s.x + 1 ∧ OtherRegsKept s t s.x ∧ SameMemory s t ∧
      t.screenEnabled = (if port = 1 then false else s.screenEnabled) ∧
      t.keyLatch = (if port = 2 ∧ s.cfg.variant ≠ .b
        then BitVec.ofNat 8 ((readByte s (getReg s s.x)).toNat % 16) else s.keyLatch) ∧
      t.hostLog = (if port = 4 ∧ s.cfg.variant = .b
        then { command := .updateDisplay, parameter := readByte s (getReg s s.x) } :: s.hostLog
        else s.hostLog) ∧
      t = { s with
        regs := t.regs
        screenEnabled := t.screenEnabled
        keyLatch := t.keyLatch
        hostLog := t.hostLog }

/-- INP 1 to 7 (R294): the value goes to D and, through the write policy, to M(R[X]); R[X] stays. Port
1 enables the screen and gives 0 (R283), port 4 gives the latch in Variant B (R287), and every other
port gives 0 (R288). That port 4 gives the latch in Variant B only is the spec's own decision D14 (log
entry 10); that the value goes to D and to memory is D31 (log entry 9). -/
def Obligations.InputStoresItsValue : Prop :=
  ∀ (s : State) (port : Port), port ≠ 0 →
    ∃ t, exec (.inp port) s = .next t ∧
      t.d = (if port = 4 ∧ s.cfg.variant = .b then s.keyLatch else 0x00) ∧
      StoredAt s t (getReg s s.x) t.d ∧
      t.screenEnabled = (if port = 1 then true else s.screenEnabled) ∧
      t = { s with d := t.d, mem := t.mem, screenEnabled := t.screenEnabled }

/-! ### Who writes the control state (10_state.md R23 to R37) -/

/-- The access matrix for the control state (R23 to R25, R28 to R30, R33, R35, R37): an instruction that
changes P, X, T, IE, Q, DF, screenEnabled or keyLatch is one of those the rules name, and no
instruction changes curKey, the captured screen, the frame state, the budget or the instance. That OUT
2 writes the latch in Variants A and C only is the spec's own decision D14 (log entry 10). -/
def Obligations.OnlyTheNamedInstructionsWriteControlState : Prop :=
  ∀ (i : Instr) (s t : State), exec i s = .next t →
    (t.p ≠ s.p → i = .sep t.p ∨ i = .ret ∨ i = .dis) ∧
    (t.x ≠ s.x → i = .sex t.x ∨ i = .mark ∨ i = .ret ∨ i = .dis) ∧
    (t.t ≠ s.t → i = .mark) ∧
    (t.ie ≠ s.ie → (i = .ret ∧ t.ie = true) ∨ (i = .dis ∧ t.ie = false)) ∧
    (t.q ≠ s.q → (i = .seq ∧ t.q = true) ∨ (i = .req ∧ t.q = false)) ∧
    (t.df ≠ s.df → i ∈ [.add, .adc, .sd, .sdb, .sm, .smb, .shr, .shrc, .shl, .shlc] ∨
      ∃ imm, i ∈ [.adi imm, .adci imm, .sdi imm, .sdbi imm, .smi imm, .smbi imm]) ∧
    (t.screenEnabled ≠ s.screenEnabled →
      (i = .inp 1 ∧ t.screenEnabled = true) ∨ (i = .out 1 ∧ t.screenEnabled = false)) ∧
    (t.keyLatch ≠ s.keyLatch → i = .out 2 ∧ s.cfg.variant ≠ .b) ∧
    t.curKey = s.curKey ∧ t.screenBase = s.screenBase ∧ t.scroll = s.scroll ∧
    t.frameState = s.frameState ∧ t.budget = s.budget ∧ t.cfg = s.cfg

/-- T changes in an advance only by MARK or by an interrupt delivery, which leaves P = 1, X = 2 and
IE = 0; Q only by SEQ and REQ; D, DF and Q never by the frame bookkeeping (10_state.md R28, R30;
60_exceptions.md R317, R321). -/
def Obligations.AnAdvanceWritesTOnlyByMarkOrInterrupt : Prop :=
  ∀ s t : State, step s = .next t →
    (t.t ≠ s.t → fetchInstr s = .mark ∨
      (s.frameState = .bulk ∧ s.budget < 2 ∧ t.p = 1 ∧ t.x = 2 ∧ t.ie = false)) ∧
    (t.q ≠ s.q → fetchInstr s = .seq ∨ fetchInstr s = .req) ∧
    ∃ u, exec (fetchInstr s) (afterFetch s) = .next u ∧ t.d = u.d ∧ t.df = u.df ∧ t.q = u.q

/-- The CORE never issues set-keypad-group (the spec's own decision D30, log entry 25): an advance only adds to the record of commands, never that
one, and neither a load nor a reset issues any (60_exceptions.md R345, R342;
70_reset_and_hazards.md R360). -/
def Obligations.SetKeypadGroupIsNeverIssued : Prop :=
  ∀ s t : State,
    (step s = .next t → ∃ new : List HostEvent, t.hostLog = new ++ s.hostLog ∧
      ∀ e ∈ new, e.command ≠ .setKeypadGroup) ∧
    (∀ (a : Word) (data : List Byte), (loadBytes s a data).hostLog = s.hostLog) ∧
    (∀ (draws : ResetDraws) (buffer : Option (List Byte)), resetOp draws buffer s = .next t →
      t.hostLog = s.hostLog)

/-! ### The frame machine (60_exceptions.md) -/

/-- Every advance, whatever its opcode, deducts 2 from the budget; exactly when the budget is then
negative there is one transition, to the other state, and the budget becomes that state's value, 29
or BULK_BUDGET (R311, R312, R313). Without a transition the bookkeeping changes the budget and nothing
else (R310). The flat cost is kept by the spec's own decision D27, and D18 and D17 say when the budget
is tested and that the reload drops the overshoot (log entry 20). -/
def Obligations.AdvanceCostsTwoUnitsAndReloads : Prop :=
  (∀ s : State, 2 ≤ s.budget → frameTick s = { s with budget := s.budget - 2 }) ∧
  ∀ s t : State, step s = .next t →
    (0 ≤ s.budget - 2 → t.frameState = s.frameState ∧ t.budget = s.budget - 2) ∧
    (s.budget - 2 < 0 → s.frameState = .bulk →
      t.frameState = .interruptPreliminary ∧ t.budget = 29) ∧
    (s.budget - 2 < 0 → s.frameState = .interruptPreliminary →
      t.frameState = .bulk ∧ t.budget = s.cfg.bulkBudget)

/-- A phase entered with budget B lasts exactly floor(B / 2) + 1 advances, whatever opcodes run: the
state stays for the first floor(B / 2), and the next one ends the phase; so from the start of a Bulk
phase the InterruptPreliminary phase begins after floor(BULK_BUDGET / 2) + 1 advances and the next
Bulk phase 15 advances later (R329, which the spec derives from R311 to R313; decision D17, log entry
20). -/
def Obligations.APhaseLastsHalfItsBudgetPlusOne : Prop :=
  ∀ s : State, configWf s.cfg → 0 ≤ s.budget →
    (∀ k : Nat, 2 * (k : Int) ≤ s.budget →
      ∃ t, core.run k s = .next t ∧ t.frameState = s.frameState ∧ t.budget = s.budget - 2 * k) ∧
    (∃ t, core.run (s.budget.toNat / 2 + 1) s = .next t ∧ t.frameState ≠ s.frameState ∧
      t.budget = match s.frameState with
        | .bulk => 29
        | .interruptPreliminary => (s.cfg.bulkBudget : Int)) ∧
    (s.frameState = .bulk → s.budget = s.cfg.bulkBudget →
      ∃ t u, core.run (s.cfg.bulkBudget / 2 + 1) s = .next t ∧
        t.frameState = .interruptPreliminary ∧ t.budget = 29 ∧
        core.run 15 t = .next u ∧ u.frameState = .bulk ∧ u.budget = s.cfg.bulkBudget)

/-- Delivery: T is X:P, P is 1, X is 2, IE is 0, and nothing else changes, no register, D, DF, Q or
memory; the next fetch is at R[1] (R317). The layout of T is the spec's own decision D6 (log entry
29). -/
def Obligations.InterruptDeliverySavesXAndPInT : Prop :=
  ∀ s : State, ∃ t, t = deliverInterrupt s ∧
    t.t.toNat = 16 * s.x.toNat + s.p.toNat ∧ t.p = 1 ∧ t.x = 2 ∧ t.ie = false ∧
    pc t = getReg s 1 ∧ t = { s with t := t.t, p := t.p, x := t.x, ie := t.ie } ∧ SameMemory s t

/-- The whole Bulk-to-InterruptPreliminary transition (R314, R315, R316, R317): with the screen disabled
only the frame state and the budget change; with it enabled an IDL byte at R[P] is passed over, and
then, exactly when IE = 1, the interrupt is delivered. What the wake reads and the layout of T are the
spec's own decisions D5 and D6 (log entries 11 and 29). -/
def Obligations.BulkEndsWithWakeAndInterrupt : Prop :=
  ∀ s : State, s.frameState = .bulk → s.budget < 2 →
    (s.screenEnabled = false →
      frameTick s = { s with frameState := .interruptPreliminary, budget := 29 }) ∧
    (s.screenEnabled = true →
      ∃ w : State,
        ContinuesAt s w (if readByte s (pc s) = 0x00 then pc s + 1 else pc s) ∧
        (s.ie = false →
          frameTick s = { w with frameState := .interruptPreliminary, budget := 29 }) ∧
        (s.ie = true →
          frameTick s = { deliverInterrupt w with
            frameState := .interruptPreliminary
            budget := 29 }))

/-- An interrupt is delivered only at a Bulk-to-InterruptPreliminary transition, only with the screen
enabled and only with IE = 1 (R316, R318): the bookkeeping of an advance changes T, P, X or IE at no
other time, and nothing is latched. -/
def Obligations.InterruptOnlyAtTheEndOfBulk : Prop :=
  ∀ s : State,
    (frameTick s).t ≠ s.t ∨ (frameTick s).p ≠ s.p ∨ (frameTick s).x ≠ s.x ∨
        (frameTick s).ie ≠ s.ie →
      s.frameState = .bulk ∧ s.budget < 2 ∧ s.screenEnabled = true ∧ s.ie = true

/-- The InterruptPreliminary-to-Bulk transition captures the screen from R[0], enabled or not: the
base is the page of R[0]'s high byte plus the page offset (0 in Variants A and B) modulo 256, the
scroll its low byte, and the Screen Pointer their sum modulo 2^16 (R322; the arithmetic is the spec's
own decision D23, log entry 30). It changes no register of
the register file and no memory, and delivers no interrupt (R321). -/
def Obligations.TheScreenIsCapturedFromRegisterZero : Prop :=
  ∀ s : State, s.frameState = .interruptPreliminary → s.budget < 2 →
    ∃ t, frameTick s = t ∧
      t.screenBase.toNat =
        ((getReg s 0).toNat / 256 +
          (if s.cfg.variant = .c then s.cfg.pageOffsetC.toNat else 0)) % 256 * 256 ∧
      t.scroll.toNat = (getReg s 0).toNat % 256 ∧
      (screenPointer t).toNat = (t.screenBase.toNat + t.scroll.toNat) % 65536 ∧
      SameMemory s t ∧
      t = { s with
        frameState := .bulk
        budget := s.cfg.bulkBudget
        screenBase := t.screenBase
        scroll := t.scroll
        curKey := t.curKey
        keyLatch := t.keyLatch
        hostLog := t.hostLog
        hostAnswers := t.hostAnswers }

/-- The transition issues frame-sync with parameter 0 and then read-keyboard for the keys 0 to 15 in
increasing order, and nothing else (R323, R324; the order is the spec's own decision D12, log entry
18). -/
def Obligations.TheTransitionSyncsThenPollsSixteenKeys : Prop :=
  ∀ s : State, s.frameState = .interruptPreliminary → s.budget < 2 →
    ((frameTick s).hostLog.reverse =
      s.hostLog.reverse ++ { command := .frameSync, parameter := 0 } ::
        (List.range 16).map (fun k =>
          { command := .readKeyboard, parameter := BitVec.ofNat 8 k }))

/-- The sampled key is the lowest pressed index, or NONE when none is pressed (R325), and it becomes
curKey (R327): stated for every schedule of sixteen answers. The priority is the spec's own decision
D12 (log entry 18). -/
def Obligations.TheLowestPressedKeyIsSampled : Prop :=
  ∀ (s : State) (answers rest : List Bool), s.frameState = .interruptPreliminary →
    s.budget < 2 → answers.length = 16 → s.hostAnswers = answers ++ rest →
    (frameTick s).hostAnswers = rest ∧
    ((∀ j < 16, answers[j]? = some false) → (frameTick s).curKey = none) ∧
    (∀ k : Key, answers[k.toNat]? = some true → (∀ j < k.toNat, answers[j]? = some false) →
      (frameTick s).curKey = some k)

/-- The key edge (R326, R327): curKey becomes the sample; in the shift variant a new key enters the
accumulator at the low nibble, and a held key or a release shifts nothing; in a select variant the
latch stays. The InterruptPreliminary-to-Bulk transition is what updates the latch: by the edge to the
key it sampled (R321). The nibble order is the spec's own decision D13 (log entry 18), and that the
shift latch is Variant B's and the select latch Variant A's and C's is D14 (log entry 10). -/
def Obligations.AKeyEdgeUpdatesTheLatch : Prop :=
  (∀ s : State, s.frameState = .interruptPreliminary → s.budget < 2 →
    (frameTick s).keyLatch = (keyEdge s (frameTick s).curKey).keyLatch) ∧
  ∀ (s : State) (k : Option Key),
    (keyEdge s k).curKey = k ∧
    keyEdge s k = { s with curKey := k, keyLatch := (keyEdge s k).keyLatch } ∧
    (s.cfg.variant ≠ .b → (keyEdge s k).keyLatch = s.keyLatch) ∧
    (k = s.curKey ∨ k = none → (keyEdge s k).keyLatch = s.keyLatch) ∧
    (∀ key : Key, s.cfg.variant = .b → k = some key → s.curKey ≠ some key →
      (keyEdge s k).keyLatch.toNat = s.keyLatch.toNat * 16 % 256 + key.toNat)

/-- An IDL with the screen disabled is never left (45_control.md R250, 60_exceptions.md R301): after
any number of advances the program counter still addresses it, and only the frame machine and the
keyboard have moved. That IDL waits on its own byte is the spec's own decision D5 (log entry 11). -/
def Obligations.IdleWithTheScreenOffIsNeverLeft : Prop :=
  ∀ (s : State) (k : Nat), configWf s.cfg → s.screenEnabled = false →
    readByte s (pc s) = 0x00 →
    ∃ t, core.run k s = .next t ∧ pc t = pc s ∧ SameMemory s t ∧
      t = { s with
        frameState := t.frameState
        budget := t.budget
        screenBase := t.screenBase
        scroll := t.scroll
        curKey := t.curKey
        keyLatch := t.keyLatch
        hostLog := t.hostLog
        hostAnswers := t.hostAnswers }

/-! ### Reset and the queries -/

/-- Reset, with a buffer or without (70_reset_and_hazards.md R360, R361; 10_state.md R38): X, P, Q, R[0]
and IE, the frame machine, the screen flag and the keyboard are as the table says, Variant A's D, P, X
and R[2] are the preload, and every other register is the draw; RAM holds the supplied bytes and its
size is RAM_SIZE, or is as before; the images stay, and no command is issued. Which values are draws,
the keyboard, the budget, the silence towards the host and the binding of RAM are the spec's own
decisions D15 to D17, D23, D33 and D35 (log entries 2, 3, 20 and 25), and that the preload belongs to
Variant A is D14 (log entry 10). -/
def Obligations.ResetSetsTheListedValues : Prop :=
  ∀ (draws : ResetDraws) (buffer : Option (List Byte)) (s : State) (c : Config),
    c = (match buffer with
      | some bytes => { s.cfg with ramSize := bytes.length }
      | none => s.cfg) →
    configWf c →
    ∃ t, resetOp draws buffer s = .next t ∧ t.cfg = c ∧
      (∀ bytes, buffer = some bytes → ∀ j (h : j < bytes.length), ramRead t.mem j = bytes[j]) ∧
      (buffer = none → t.mem = s.mem) ∧
      getReg t 0 = 0x0000 ∧ t.q = false ∧ t.ie = true ∧
      t.frameState = .bulk ∧ t.budget = s.cfg.bulkBudget ∧ t.screenEnabled = false ∧
      t.curKey = none ∧ t.keyLatch = 0 ∧
      t.t = draws.t ∧ t.df = draws.df ∧ t.screenBase = draws.screenBase ∧
      t.scroll = draws.scroll ∧
      (∀ n : RegNum, n ≠ 0 → n ≠ 2 → getReg t n = draws.regs[n.toNat]) ∧
      (s.cfg.variant = .a → t.p = s.cfg.preloadP ∧ t.x = s.cfg.preloadX ∧
        t.d = s.cfg.preloadD ∧ getReg t 2 = s.cfg.preloadR2) ∧
      (s.cfg.variant ≠ .a → t.p = 0 ∧ t.x = 0 ∧ t.d = draws.d ∧ getReg t 2 = draws.regs[2]) ∧
      t.hostLog = s.hostLog ∧ t.hostAnswers = s.hostAnswers

/-- A reset without a buffer keeps the bound one with its contents; a supplied buffer is bound, its
size becoming RAM_SIZE, or refused when it breaks the constraints; the first reset of an instance
without a buffer is refused (R363). The first reset with a buffer binds it, or refuses it by the same
constraints, and leaves the values of the table (R360, R361; 10_state.md R38), with no command issued
yet; the answers fixed for the host's coming polls are the model's (log entry 5). That RAM is bound so
is the spec's own decision D35 (log entry 25), that the preload belongs to Variant A is D14 (log entry
10), and the other values rest on D15 to D17, D23 and D33 (log entries 2, 3, 20 and 25). -/
def Obligations.ResetWithoutABufferKeepsTheBoundOne : Prop :=
  (∀ (draws : ResetDraws) (s : State), configWf s.cfg →
    ∃ t, resetOp draws none s = .next t ∧ t.cfg = s.cfg ∧ t.mem = s.mem ∧ SameMemory s t) ∧
  (∀ (draws : ResetDraws) (bytes : List Byte) (s : State),
    (configWf { s.cfg with ramSize := bytes.length } →
      ∃ t, resetOp draws (some bytes) s = .next t ∧
        t.cfg = { s.cfg with ramSize := bytes.length } ∧
        ∀ j (h : j < bytes.length), ramRead t.mem j = bytes[j]) ∧
    (¬configWf { s.cfg with ramSize := bytes.length } →
      resetOp draws (some bytes) s = .refused .illFormedInstance)) ∧
  (∀ (c : Config) (answers : List Bool) (draws : ResetDraws),
    firstReset c answers draws none = .refused .noRamBuffer) ∧
  ∀ (c : Config) (answers : List Bool) (draws : ResetDraws) (bytes : List Byte),
    (¬configWf { c with ramSize := bytes.length } →
      firstReset c answers draws (some bytes) = .refused .illFormedInstance) ∧
    (configWf { c with ramSize := bytes.length } →
      ∃ t, firstReset c answers draws (some bytes) = .next t ∧
        t.cfg = { c with ramSize := bytes.length } ∧
        (∀ j (h : j < bytes.length), ramRead t.mem j = bytes[j]) ∧
        getReg t 0 = 0x0000 ∧ t.q = false ∧ t.ie = true ∧
        t.frameState = .bulk ∧ t.budget = c.bulkBudget ∧ t.screenEnabled = false ∧
        t.curKey = none ∧ t.keyLatch = 0 ∧
        t.t = draws.t ∧ t.df = draws.df ∧ t.screenBase = draws.screenBase ∧
        t.scroll = draws.scroll ∧
        (∀ n : RegNum, n ≠ 0 → n ≠ 2 → getReg t n = draws.regs[n.toNat]) ∧
        (c.variant = .a → t.p = c.preloadP ∧ t.x = c.preloadX ∧ t.d = c.preloadD ∧
          getReg t 2 = c.preloadR2) ∧
        (c.variant ≠ .a → t.p = 0 ∧ t.x = 0 ∧ t.d = draws.d ∧ getReg t 2 = draws.regs[2]) ∧
        t.hostLog = [] ∧ t.hostAnswers = answers)

/-- The queries (10_state.md R40; 60_exceptions.md R346, R348, R328): the screen query gives the
Screen Pointer only while the screen is enabled, and always the scroll; the program-counter query
gives R[P]; the snapshot gives the register file, the frame state and the budget. The Screen Pointer's
arithmetic is the spec's own decision D23 (log entry 30). -/
def Obligations.TheQueriesReportTheState : Prop :=
  ∀ s : State,
    (s.screenEnabled = false → screenQuery s = (none, s.scroll)) ∧
    (s.screenEnabled = true → ∃ w : Word, screenQuery s = (some w, s.scroll) ∧
      w.toNat = (s.screenBase.toNat + s.scroll.toNat) % 65536) ∧
    pcQuery s = getReg s s.p ∧
    (∀ n : RegNum, (snapshot s).regs[n.toNat] = getReg s n) ∧
    (snapshot s).d = s.d ∧ (snapshot s).df = s.df ∧ (snapshot s).p = s.p ∧
    (snapshot s).x = s.x ∧ (snapshot s).t = s.t ∧ (snapshot s).ie = s.ie ∧
    (snapshot s).q = s.q ∧ (snapshot s).frameState = s.frameState ∧
    (snapshot s).budget = s.budget ∧ advanceResult s = s.frameState
end

