-- ==== Sys2Proof/Laws/Decode.lean ====
section
/-!
SUPPORT. The bit fields in integers, and what the decoder and the encoder share byte by byte.
-/

namespace Sys2Proof

/-! ### Bit fields in integers -/

theorem hiByte_toNat (w : Word) : (hiByte w).toNat = w.toNat / 256 := by
  have := w.isLt
  simp only [hiByte, BitVec.extractLsb'_toNat, Nat.shiftRight_eq_div_pow]
  omega

theorem loByte_toNat (w : Word) : (loByte w).toNat = w.toNat % 256 := by
  simp [loByte, BitVec.extractLsb'_toNat]

theorem joinBytes_toNat (hi lo : Byte) : (joinBytes hi lo).toNat = hi.toNat * 256 + lo.toNat := by
  have := lo.isLt
  simp only [joinBytes, BitVec.toNat_append]
  rw [← Nat.shiftLeft_add_eq_or_of_lt this, Nat.shiftLeft_eq]

theorem groupOf_toNat (b : Byte) : (groupOf b).toNat = b.toNat / 16 := by
  have := b.isLt
  simp only [groupOf, BitVec.extractLsb'_toNat, Nat.shiftRight_eq_div_pow]
  omega

theorem fieldOf_toNat (b : Byte) : (fieldOf b).toNat = b.toNat % 16 := by
  simp [fieldOf, BitVec.extractLsb'_toNat]

@[simp] theorem joinBytes_hiByte_loByte (w : Word) : joinBytes (hiByte w) (loByte w) = w := by
  apply BitVec.eq_of_toNat_eq
  rw [joinBytes_toNat, hiByte_toNat, loByte_toNat]
  omega

@[simp] theorem hiByte_joinBytes (hi lo : Byte) : hiByte (joinBytes hi lo) = hi := by
  apply BitVec.eq_of_toNat_eq
  have := lo.isLt
  rw [hiByte_toNat, joinBytes_toNat]
  omega

@[simp] theorem loByte_joinBytes (hi lo : Byte) : loByte (joinBytes hi lo) = lo := by
  apply BitVec.eq_of_toNat_eq
  have := lo.isLt
  rw [loByte_toNat, joinBytes_toNat]
  omega

/-! ### The decoder, opcode byte by opcode byte -/

/-- A fact of every opcode byte is a fact of 256 numerals. -/
theorem forall_byte {P : Byte → Prop} (h : ∀ n < 256, P (BitVec.ofNat 8 n)) (b : Byte) : P b := by
  have := h b.toNat b.isLt
  rwa [BitVec.ofNat_toNat, BitVec.setWidth_eq] at this

theorem opcodeLength_cases (op : Byte) :
    opcodeLength op = 1 ∨ opcodeLength op = 2 ∨ opcodeLength op = 3 := by
  revert op
  decide +kernel

/-- The encoder gives back the opcode byte and the operand bytes that its length takes in. -/
theorem encode_decodeOp (op b1 b2 : Byte) :
    encode (decodeOp op b1 b2) = [op, b1, b2].take (opcodeLength op) := by
  refine forall_byte
    (P := fun op => encode (decodeOp op b1 b2) = [op, b1, b2].take (opcodeLength op))
    (fun n hn => ?_) op
  interval_cases n <;> first
    | rfl
    | exact congrArg (List.cons _) (congrArg₂ (fun x y => [x, y]) (hiByte_joinBytes b1 b2)
        (loByte_joinBytes b1 b2))

/-- What the decoder answers is well formed. -/
theorem decodeOp_wellFormed (op b1 b2 : Byte) : (decodeOp op b1 b2).WellFormed = true := by
  refine forall_byte (P := fun op => (decodeOp op b1 b2).WellFormed = true) (fun n hn => ?_) op
  interval_cases n <;> rfl

/-- An instruction of one byte ignores the bytes after it. -/
theorem decodeOp_one (op b1 b2 c1 c2 : Byte) (h : opcodeLength op = 1) :
    decodeOp op b1 b2 = decodeOp op c1 c2 := by
  revert h
  refine forall_byte (P := fun op => opcodeLength op = 1 → decodeOp op b1 b2 = decodeOp op c1 c2)
    (fun n hn => ?_) op
  interval_cases n <;> intro h <;> first
    | rfl
    | exact absurd h (by decide)

/-- An instruction of two bytes ignores the third. -/
theorem decodeOp_two (op b1 b2 c2 : Byte) (h : opcodeLength op = 2) :
    decodeOp op b1 b2 = decodeOp op b1 c2 := by
  revert h
  refine forall_byte (P := fun op => opcodeLength op = 2 → decodeOp op b1 b2 = decodeOp op b1 c2)
    (fun n hn => ?_) op
  interval_cases n <;> intro h <;> first
    | rfl
    | exact absurd h (by decide)

/-- The decoder on a list: the instruction of the first three bytes and the rest after its length,
when the list is long enough. -/
theorem decode_cases (op : Byte) (rest : List Byte) :
    (opcodeLength op = 1 ∧ decode (op :: rest) = .ok (decodeOp op 0 0, rest)) ∨
    (∃ b1 rest', opcodeLength op = 2 ∧ rest = b1 :: rest' ∧
      decode (op :: rest) = .ok (decodeOp op b1 0, rest')) ∨
    (∃ b1 b2 rest', opcodeLength op = 3 ∧ rest = b1 :: b2 :: rest' ∧
      decode (op :: rest) = .ok (decodeOp op b1 b2, rest')) ∨
    (1 + rest.length < opcodeLength op ∧ decode (op :: rest) = .error (.truncated op)) := by
  rcases opcodeLength_cases op with e | e | e
  · exact .inl ⟨e, by simp [decode, e]⟩
  · cases rest with
    | nil => exact .inr (.inr (.inr ⟨by simp [e], by simp [decode, e]⟩))
    | cons b1 rest' => exact .inr (.inl ⟨b1, rest', e, rfl, by simp [decode, e]⟩)
  · match rest with
    | [] => exact .inr (.inr (.inr ⟨by simp [e], by simp [decode, e]⟩))
    | [b1] => exact .inr (.inr (.inr ⟨by simp [e], by simp [decode, e]⟩))
    | b1 :: b2 :: rest' => exact .inr (.inr (.inl ⟨b1, b2, rest', e, rfl, by simp [decode, e]⟩))

end Sys2Proof
end

