-- ==== Sys2Proof/Laws/Memory.lean ====
section
/-!
SUPPORT. The RAM buffer: a read after a write, and the canonical form kept by every operation.
-/

namespace Sys2Proof.Machine

/-- Every index of a buffer is above `i`. -/
def AllAbove (i : Nat) (m : Memory) : Prop := ∀ c ∈ m, i < c.1

theorem ramRead_of_allAbove {i : Nat} {m : Memory} (h : AllAbove i m) :
    ramRead m i = memoryDefault := by
  induction m with
  | nil => rfl
  | cons c rest ih =>
    have hc : i < c.1 := h c (by simp)
    have hr : AllAbove i rest := fun x hx => h x (by simp [hx])
    simp [ramRead, Nat.ne_of_gt hc, ih hr]

theorem ramRead_ramCons (i j : Nat) (v : Byte) (rest : Memory) :
    ramRead (ramCons i v rest) j =
      if i = j then (if v = memoryDefault then ramRead rest j else v) else ramRead rest j := by
  unfold ramCons
  by_cases hv : v = memoryDefault <;> by_cases hij : i = j <;> simp [hv, hij, ramRead]

theorem mem_ramCons {i : Nat} {v : Byte} {rest : Memory} {c : Host.Cell}
    (h : c ∈ ramCons i v rest) : c = (i, v) ∧ v ≠ memoryDefault ∨ c ∈ rest := by
  unfold ramCons at h
  split at h
  · exact .inr h
  · rcases List.mem_cons.mp h with h | h
    · exact .inl ⟨h, ‹_›⟩
    · exact .inr h

theorem Memory.wf_cons {c : Host.Cell} {rest : Memory} :
    Memory.wf (c :: rest) ↔ AllAbove c.1 rest ∧ c.2 ≠ memoryDefault ∧ Memory.wf rest := by
  simp only [Memory.wf, List.pairwise_cons, List.mem_cons, forall_eq_or_imp, AllAbove]
  constructor
  · rintro ⟨⟨h1, h2⟩, h3, h4⟩; exact ⟨h1, h3, h2, h4⟩
  · rintro ⟨h1, h3, h2, h4⟩; exact ⟨⟨h1, h2⟩, h3, h4⟩

theorem Memory.wf_nil : Memory.wf [] := by simp [Memory.wf]

theorem ramCons_wf {i : Nat} {v : Byte} {rest : Memory} (ha : AllAbove i rest)
    (h : Memory.wf rest) : Memory.wf (ramCons i v rest) := by
  unfold ramCons
  split
  · exact h
  · exact Memory.wf_cons.mpr ⟨ha, ‹_›, h⟩

/-! ### Writes -/

theorem ramRead_ramErase_same (m : Memory) (i : Nat) : ramRead (ramErase m i) i = memoryDefault := by
  induction m with
  | nil => rfl
  | cons c rest ih =>
    by_cases h : c.1 = i
    · simpa [ramErase, h] using ih
    · simpa [ramErase, h, ramRead] using ih

theorem ramRead_ramErase_other (m : Memory) (i j : Nat) (h : j ≠ i) :
    ramRead (ramErase m i) j = ramRead m j := by
  induction m with
  | nil => rfl
  | cons c rest ih =>
    obtain ⟨k, w⟩ := c
    by_cases hk : k = i
    · have hkj : k ≠ j := fun e => h (e.symm.trans hk)
      simpa [ramErase, hk, ramRead, hkj, h.symm] using ih
    · by_cases hj : k = j <;> simp_all [ramErase, ramRead]

theorem ramRead_ramInsert_same (m : Memory) (i : Nat) (v : Byte) :
    ramRead (ramInsert i v m) i = v := by
  induction m with
  | nil => simp [ramInsert, ramRead]
  | cons c rest ih =>
    simp only [ramInsert]
    split
    · have hk : c.1 ≠ i := by omega
      simp [ramRead, hk, ih]
    · simp [ramRead]

theorem ramRead_ramInsert_other (m : Memory) (i j : Nat) (v : Byte) (h : j ≠ i) :
    ramRead (ramInsert i v m) j = ramRead m j := by
  induction m with
  | nil => simp [ramInsert, ramRead, h.symm]
  | cons c rest ih =>
    simp only [ramInsert]
    split
    · simp [ramRead, ih]
    · simp [ramRead, h.symm]

/-- A buffer byte reads as what was just written to it. -/
theorem ramRead_ramWrite_same (m : Memory) (i : Nat) (v : Byte) : ramRead (ramWrite m i v) i = v := by
  unfold ramWrite
  split
  · subst_vars; exact ramRead_ramErase_same m i
  · exact ramRead_ramInsert_same _ i v

/-- A write leaves every other byte of the buffer alone. -/
theorem ramRead_ramWrite_other (m : Memory) (i j : Nat) (v : Byte) (h : j ≠ i) :
    ramRead (ramWrite m i v) j = ramRead m j := by
  unfold ramWrite
  split
  · exact ramRead_ramErase_other m i j h
  · rw [ramRead_ramInsert_other _ i j v h, ramRead_ramErase_other m i j h]

theorem mem_ramErase {m : Memory} {i : Nat} {c : Host.Cell} (h : c ∈ ramErase m i) :
    c ∈ m ∧ c.1 ≠ i := by
  simpa [ramErase] using h

theorem mem_ramInsert {m : Memory} {i : Nat} {v : Byte} {c : Host.Cell}
    (h : c ∈ ramInsert i v m) : c = (i, v) ∨ c ∈ m := by
  induction m with
  | nil => simpa [ramInsert] using h
  | cons d rest ih =>
    simp only [ramInsert] at h
    split at h
    · rcases List.mem_cons.mp h with h | h
      · exact .inr (by simp [h])
      · exact (ih h).imp id (by simp +contextual)
    · simpa using h

/-- Every cell after a write is the written one or was there before. -/
theorem mem_ramWrite {m : Memory} {i : Nat} {v : Byte} {c : Host.Cell}
    (h : c ∈ ramWrite m i v) : c = (i, v) ∧ v ≠ memoryDefault ∨ c ∈ m := by
  unfold ramWrite at h
  split at h
  · exact .inr (mem_ramErase h).1
  · exact (mem_ramInsert h).imp (fun e => ⟨e, ‹_›⟩) (fun e => (mem_ramErase e).1)

theorem ramErase_wf {m : Memory} (h : Memory.wf m) (i : Nat) : Memory.wf (ramErase m i) :=
  ⟨h.1.filter _, fun c hc => h.2 c (mem_ramErase hc).1⟩

theorem ramInsert_wf {m : Memory} {i : Nat} {v : Byte} (h : Memory.wf m)
    (hi : ∀ c ∈ m, c.1 ≠ i) (hv : v ≠ memoryDefault) : Memory.wf (ramInsert i v m) := by
  induction m with
  | nil => exact Memory.wf_cons.mpr ⟨by simp [AllAbove], hv, h⟩
  | cons d rest ih =>
    obtain ⟨k, w⟩ := d
    obtain ⟨ha, hw, hr⟩ := Memory.wf_cons.mp h
    simp only [ramInsert]
    split
    · refine Memory.wf_cons.mpr ⟨fun c hc => ?_, hw, ih hr (fun c hc => hi c (by simp [hc]))⟩
      rcases mem_ramInsert hc with rfl | hc
      · assumption
      · exact ha c hc
    · have hk : k ≠ i := hi (k, w) (by simp)
      have hik : i < k := by omega
      refine Memory.wf_cons.mpr ⟨fun c hc => ?_, hv, h⟩
      rcases List.mem_cons.mp hc with rfl | hc
      · exact hik
      · exact hik.trans (ha c hc)

/-- A write keeps the canonical form. -/
theorem ramWrite_wf {m : Memory} (h : Memory.wf m) (i : Nat) (v : Byte) :
    Memory.wf (ramWrite m i v) := by
  unfold ramWrite
  split
  · exact ramErase_wf h i
  · exact ramInsert_wf (ramErase_wf h i) (fun c hc => (mem_ramErase hc).2) ‹_›

/-! ### A buffer from its bytes -/

theorem ramOfBytes_above {start : Nat} {bytes : List Byte} {c : Host.Cell}
    (h : c ∈ ramOfBytes start bytes) : start ≤ c.1 ∧ c.1 < start + bytes.length := by
  induction bytes generalizing start with
  | nil => simp [ramOfBytes] at h
  | cons b rest ih =>
    rcases mem_ramCons h with ⟨rfl, -⟩ | h
    · simp
    · have := ih h
      simp only [List.length_cons]
      omega

/-- The buffer of a list of bytes is canonical. -/
theorem ramOfBytes_wf (start : Nat) (bytes : List Byte) : Memory.wf (ramOfBytes start bytes) := by
  induction bytes generalizing start with
  | nil => exact Memory.wf_nil
  | cons b rest ih =>
    refine ramCons_wf (fun c hc => ?_) (ih _)
    have := ramOfBytes_above hc
    omega

/-- The buffer of a list of bytes reads as that list. -/
theorem ramRead_ramOfBytes (start : Nat) (bytes : List Byte) (j : Nat) (h : j < bytes.length) :
    ramRead (ramOfBytes start bytes) (start + j) = bytes[j] := by
  induction bytes generalizing start j with
  | nil => simp at h
  | cons b rest ih =>
    simp only [ramOfBytes, ramRead_ramCons]
    cases j with
    | zero =>
      simp only [Nat.add_zero, if_true, List.getElem_cons_zero]
      split
      · subst_vars
        exact ramRead_of_allAbove (fun c hc => by have := ramOfBytes_above hc; omega)
      · rfl
    | succ j =>
      have hne : start ≠ start + (j + 1) := by omega
      have := ih (start + 1) j (by simpa using h)
      simp only [hne, if_false, List.getElem_cons_succ]
      rw [← this]
      congr 1
      omega

end Sys2Proof.Machine
end

