-- ==== Sys2Proof/Laws/State.lean ====
section
/-!
SUPPORT. One lemma per field per update of the state: what an update leaves alone, and what it
writes.
-/

namespace Sys2Proof.Machine

variable (s : State)

/-! ### `setReg` -/

@[simp] theorem setReg_cfg (n : RegNum) (v : Word) : (setReg s n v).cfg = s.cfg := rfl
@[simp] theorem setReg_d (n : RegNum) (v : Word) : (setReg s n v).d = s.d := rfl
@[simp] theorem setReg_df (n : RegNum) (v : Word) : (setReg s n v).df = s.df := rfl
@[simp] theorem setReg_p (n : RegNum) (v : Word) : (setReg s n v).p = s.p := rfl
@[simp] theorem setReg_x (n : RegNum) (v : Word) : (setReg s n v).x = s.x := rfl
@[simp] theorem setReg_t (n : RegNum) (v : Word) : (setReg s n v).t = s.t := rfl
@[simp] theorem setReg_ie (n : RegNum) (v : Word) : (setReg s n v).ie = s.ie := rfl
@[simp] theorem setReg_q (n : RegNum) (v : Word) : (setReg s n v).q = s.q := rfl
@[simp] theorem setReg_frameState (n : RegNum) (v : Word) : (setReg s n v).frameState = s.frameState := rfl
@[simp] theorem setReg_budget (n : RegNum) (v : Word) : (setReg s n v).budget = s.budget := rfl
@[simp] theorem setReg_screenEnabled (n : RegNum) (v : Word) : (setReg s n v).screenEnabled = s.screenEnabled := rfl
@[simp] theorem setReg_screenBase (n : RegNum) (v : Word) : (setReg s n v).screenBase = s.screenBase := rfl
@[simp] theorem setReg_scroll (n : RegNum) (v : Word) : (setReg s n v).scroll = s.scroll := rfl
@[simp] theorem setReg_curKey (n : RegNum) (v : Word) : (setReg s n v).curKey = s.curKey := rfl
@[simp] theorem setReg_keyLatch (n : RegNum) (v : Word) : (setReg s n v).keyLatch = s.keyLatch := rfl
@[simp] theorem setReg_mem (n : RegNum) (v : Word) : (setReg s n v).mem = s.mem := rfl
@[simp] theorem setReg_hostLog (n : RegNum) (v : Word) : (setReg s n v).hostLog = s.hostLog := rfl
@[simp] theorem setReg_hostAnswers (n : RegNum) (v : Word) : (setReg s n v).hostAnswers = s.hostAnswers := rfl

/-! ### `incReg` -/

@[simp] theorem incReg_cfg (n : RegNum) : (incReg s n).cfg = s.cfg := rfl
@[simp] theorem incReg_d (n : RegNum) : (incReg s n).d = s.d := rfl
@[simp] theorem incReg_df (n : RegNum) : (incReg s n).df = s.df := rfl
@[simp] theorem incReg_p (n : RegNum) : (incReg s n).p = s.p := rfl
@[simp] theorem incReg_x (n : RegNum) : (incReg s n).x = s.x := rfl
@[simp] theorem incReg_t (n : RegNum) : (incReg s n).t = s.t := rfl
@[simp] theorem incReg_ie (n : RegNum) : (incReg s n).ie = s.ie := rfl
@[simp] theorem incReg_q (n : RegNum) : (incReg s n).q = s.q := rfl
@[simp] theorem incReg_frameState (n : RegNum) : (incReg s n).frameState = s.frameState := rfl
@[simp] theorem incReg_budget (n : RegNum) : (incReg s n).budget = s.budget := rfl
@[simp] theorem incReg_screenEnabled (n : RegNum) : (incReg s n).screenEnabled = s.screenEnabled := rfl
@[simp] theorem incReg_screenBase (n : RegNum) : (incReg s n).screenBase = s.screenBase := rfl
@[simp] theorem incReg_scroll (n : RegNum) : (incReg s n).scroll = s.scroll := rfl
@[simp] theorem incReg_curKey (n : RegNum) : (incReg s n).curKey = s.curKey := rfl
@[simp] theorem incReg_keyLatch (n : RegNum) : (incReg s n).keyLatch = s.keyLatch := rfl
@[simp] theorem incReg_mem (n : RegNum) : (incReg s n).mem = s.mem := rfl
@[simp] theorem incReg_hostLog (n : RegNum) : (incReg s n).hostLog = s.hostLog := rfl
@[simp] theorem incReg_hostAnswers (n : RegNum) : (incReg s n).hostAnswers = s.hostAnswers := rfl

/-! ### `decReg` -/

@[simp] theorem decReg_cfg (n : RegNum) : (decReg s n).cfg = s.cfg := rfl
@[simp] theorem decReg_d (n : RegNum) : (decReg s n).d = s.d := rfl
@[simp] theorem decReg_df (n : RegNum) : (decReg s n).df = s.df := rfl
@[simp] theorem decReg_p (n : RegNum) : (decReg s n).p = s.p := rfl
@[simp] theorem decReg_x (n : RegNum) : (decReg s n).x = s.x := rfl
@[simp] theorem decReg_t (n : RegNum) : (decReg s n).t = s.t := rfl
@[simp] theorem decReg_ie (n : RegNum) : (decReg s n).ie = s.ie := rfl
@[simp] theorem decReg_q (n : RegNum) : (decReg s n).q = s.q := rfl
@[simp] theorem decReg_frameState (n : RegNum) : (decReg s n).frameState = s.frameState := rfl
@[simp] theorem decReg_budget (n : RegNum) : (decReg s n).budget = s.budget := rfl
@[simp] theorem decReg_screenEnabled (n : RegNum) : (decReg s n).screenEnabled = s.screenEnabled := rfl
@[simp] theorem decReg_screenBase (n : RegNum) : (decReg s n).screenBase = s.screenBase := rfl
@[simp] theorem decReg_scroll (n : RegNum) : (decReg s n).scroll = s.scroll := rfl
@[simp] theorem decReg_curKey (n : RegNum) : (decReg s n).curKey = s.curKey := rfl
@[simp] theorem decReg_keyLatch (n : RegNum) : (decReg s n).keyLatch = s.keyLatch := rfl
@[simp] theorem decReg_mem (n : RegNum) : (decReg s n).mem = s.mem := rfl
@[simp] theorem decReg_hostLog (n : RegNum) : (decReg s n).hostLog = s.hostLog := rfl
@[simp] theorem decReg_hostAnswers (n : RegNum) : (decReg s n).hostAnswers = s.hostAnswers := rfl

/-! ### `setPc` -/

@[simp] theorem setPc_cfg (w : Word) : (setPc s w).cfg = s.cfg := rfl
@[simp] theorem setPc_d (w : Word) : (setPc s w).d = s.d := rfl
@[simp] theorem setPc_df (w : Word) : (setPc s w).df = s.df := rfl
@[simp] theorem setPc_p (w : Word) : (setPc s w).p = s.p := rfl
@[simp] theorem setPc_x (w : Word) : (setPc s w).x = s.x := rfl
@[simp] theorem setPc_t (w : Word) : (setPc s w).t = s.t := rfl
@[simp] theorem setPc_ie (w : Word) : (setPc s w).ie = s.ie := rfl
@[simp] theorem setPc_q (w : Word) : (setPc s w).q = s.q := rfl
@[simp] theorem setPc_frameState (w : Word) : (setPc s w).frameState = s.frameState := rfl
@[simp] theorem setPc_budget (w : Word) : (setPc s w).budget = s.budget := rfl
@[simp] theorem setPc_screenEnabled (w : Word) : (setPc s w).screenEnabled = s.screenEnabled := rfl
@[simp] theorem setPc_screenBase (w : Word) : (setPc s w).screenBase = s.screenBase := rfl
@[simp] theorem setPc_scroll (w : Word) : (setPc s w).scroll = s.scroll := rfl
@[simp] theorem setPc_curKey (w : Word) : (setPc s w).curKey = s.curKey := rfl
@[simp] theorem setPc_keyLatch (w : Word) : (setPc s w).keyLatch = s.keyLatch := rfl
@[simp] theorem setPc_mem (w : Word) : (setPc s w).mem = s.mem := rfl
@[simp] theorem setPc_hostLog (w : Word) : (setPc s w).hostLog = s.hostLog := rfl
@[simp] theorem setPc_hostAnswers (w : Word) : (setPc s w).hostAnswers = s.hostAnswers := rfl

/-! ### `skipOperand` -/

@[simp] theorem skipOperand_cfg : (skipOperand s).cfg = s.cfg := rfl
@[simp] theorem skipOperand_d : (skipOperand s).d = s.d := rfl
@[simp] theorem skipOperand_df : (skipOperand s).df = s.df := rfl
@[simp] theorem skipOperand_p : (skipOperand s).p = s.p := rfl
@[simp] theorem skipOperand_x : (skipOperand s).x = s.x := rfl
@[simp] theorem skipOperand_t : (skipOperand s).t = s.t := rfl
@[simp] theorem skipOperand_ie : (skipOperand s).ie = s.ie := rfl
@[simp] theorem skipOperand_q : (skipOperand s).q = s.q := rfl
@[simp] theorem skipOperand_frameState : (skipOperand s).frameState = s.frameState := rfl
@[simp] theorem skipOperand_budget : (skipOperand s).budget = s.budget := rfl
@[simp] theorem skipOperand_screenEnabled : (skipOperand s).screenEnabled = s.screenEnabled := rfl
@[simp] theorem skipOperand_screenBase : (skipOperand s).screenBase = s.screenBase := rfl
@[simp] theorem skipOperand_scroll : (skipOperand s).scroll = s.scroll := rfl
@[simp] theorem skipOperand_curKey : (skipOperand s).curKey = s.curKey := rfl
@[simp] theorem skipOperand_keyLatch : (skipOperand s).keyLatch = s.keyLatch := rfl
@[simp] theorem skipOperand_mem : (skipOperand s).mem = s.mem := rfl
@[simp] theorem skipOperand_hostLog : (skipOperand s).hostLog = s.hostLog := rfl
@[simp] theorem skipOperand_hostAnswers : (skipOperand s).hostAnswers = s.hostAnswers := rfl

/-! ### `hostCommand` -/

@[simp] theorem hostCommand_cfg (c : HostCommand) (b : Byte) : (hostCommand s c b).cfg = s.cfg := rfl
@[simp] theorem hostCommand_regs (c : HostCommand) (b : Byte) : (hostCommand s c b).regs = s.regs := rfl
@[simp] theorem hostCommand_d (c : HostCommand) (b : Byte) : (hostCommand s c b).d = s.d := rfl
@[simp] theorem hostCommand_df (c : HostCommand) (b : Byte) : (hostCommand s c b).df = s.df := rfl
@[simp] theorem hostCommand_p (c : HostCommand) (b : Byte) : (hostCommand s c b).p = s.p := rfl
@[simp] theorem hostCommand_x (c : HostCommand) (b : Byte) : (hostCommand s c b).x = s.x := rfl
@[simp] theorem hostCommand_t (c : HostCommand) (b : Byte) : (hostCommand s c b).t = s.t := rfl
@[simp] theorem hostCommand_ie (c : HostCommand) (b : Byte) : (hostCommand s c b).ie = s.ie := rfl
@[simp] theorem hostCommand_q (c : HostCommand) (b : Byte) : (hostCommand s c b).q = s.q := rfl
@[simp] theorem hostCommand_frameState (c : HostCommand) (b : Byte) : (hostCommand s c b).frameState = s.frameState := rfl
@[simp] theorem hostCommand_budget (c : HostCommand) (b : Byte) : (hostCommand s c b).budget = s.budget := rfl
@[simp] theorem hostCommand_screenEnabled (c : HostCommand) (b : Byte) : (hostCommand s c b).screenEnabled = s.screenEnabled := rfl
@[simp] theorem hostCommand_screenBase (c : HostCommand) (b : Byte) : (hostCommand s c b).screenBase = s.screenBase := rfl
@[simp] theorem hostCommand_scroll (c : HostCommand) (b : Byte) : (hostCommand s c b).scroll = s.scroll := rfl
@[simp] theorem hostCommand_curKey (c : HostCommand) (b : Byte) : (hostCommand s c b).curKey = s.curKey := rfl
@[simp] theorem hostCommand_keyLatch (c : HostCommand) (b : Byte) : (hostCommand s c b).keyLatch = s.keyLatch := rfl
@[simp] theorem hostCommand_mem (c : HostCommand) (b : Byte) : (hostCommand s c b).mem = s.mem := rfl
@[simp] theorem hostCommand_hostAnswers (c : HostCommand) (b : Byte) : (hostCommand s c b).hostAnswers = s.hostAnswers := rfl

/-! ### `setResult` -/

@[simp] theorem setResult_cfg (r : Byte × Bool) : (setResult s r).cfg = s.cfg := rfl
@[simp] theorem setResult_regs (r : Byte × Bool) : (setResult s r).regs = s.regs := rfl
@[simp] theorem setResult_p (r : Byte × Bool) : (setResult s r).p = s.p := rfl
@[simp] theorem setResult_x (r : Byte × Bool) : (setResult s r).x = s.x := rfl
@[simp] theorem setResult_t (r : Byte × Bool) : (setResult s r).t = s.t := rfl
@[simp] theorem setResult_ie (r : Byte × Bool) : (setResult s r).ie = s.ie := rfl
@[simp] theorem setResult_q (r : Byte × Bool) : (setResult s r).q = s.q := rfl
@[simp] theorem setResult_frameState (r : Byte × Bool) : (setResult s r).frameState = s.frameState := rfl
@[simp] theorem setResult_budget (r : Byte × Bool) : (setResult s r).budget = s.budget := rfl
@[simp] theorem setResult_screenEnabled (r : Byte × Bool) : (setResult s r).screenEnabled = s.screenEnabled := rfl
@[simp] theorem setResult_screenBase (r : Byte × Bool) : (setResult s r).screenBase = s.screenBase := rfl
@[simp] theorem setResult_scroll (r : Byte × Bool) : (setResult s r).scroll = s.scroll := rfl
@[simp] theorem setResult_curKey (r : Byte × Bool) : (setResult s r).curKey = s.curKey := rfl
@[simp] theorem setResult_keyLatch (r : Byte × Bool) : (setResult s r).keyLatch = s.keyLatch := rfl
@[simp] theorem setResult_mem (r : Byte × Bool) : (setResult s r).mem = s.mem := rfl
@[simp] theorem setResult_hostLog (r : Byte × Bool) : (setResult s r).hostLog = s.hostLog := rfl
@[simp] theorem setResult_hostAnswers (r : Byte × Bool) : (setResult s r).hostAnswers = s.hostAnswers := rfl

/-! ### `deliverInterrupt` -/

@[simp] theorem deliverInterrupt_cfg : (deliverInterrupt s).cfg = s.cfg := rfl
@[simp] theorem deliverInterrupt_regs : (deliverInterrupt s).regs = s.regs := rfl
@[simp] theorem deliverInterrupt_d : (deliverInterrupt s).d = s.d := rfl
@[simp] theorem deliverInterrupt_df : (deliverInterrupt s).df = s.df := rfl
@[simp] theorem deliverInterrupt_q : (deliverInterrupt s).q = s.q := rfl
@[simp] theorem deliverInterrupt_frameState : (deliverInterrupt s).frameState = s.frameState := rfl
@[simp] theorem deliverInterrupt_budget : (deliverInterrupt s).budget = s.budget := rfl
@[simp] theorem deliverInterrupt_screenEnabled : (deliverInterrupt s).screenEnabled = s.screenEnabled := rfl
@[simp] theorem deliverInterrupt_screenBase : (deliverInterrupt s).screenBase = s.screenBase := rfl
@[simp] theorem deliverInterrupt_scroll : (deliverInterrupt s).scroll = s.scroll := rfl
@[simp] theorem deliverInterrupt_curKey : (deliverInterrupt s).curKey = s.curKey := rfl
@[simp] theorem deliverInterrupt_keyLatch : (deliverInterrupt s).keyLatch = s.keyLatch := rfl
@[simp] theorem deliverInterrupt_mem : (deliverInterrupt s).mem = s.mem := rfl
@[simp] theorem deliverInterrupt_hostLog : (deliverInterrupt s).hostLog = s.hostLog := rfl
@[simp] theorem deliverInterrupt_hostAnswers : (deliverInterrupt s).hostAnswers = s.hostAnswers := rfl

/-! ### What the updates write -/

@[simp] theorem hostCommand_hostLog (c : HostCommand) (b : Byte) :
    (hostCommand s c b).hostLog = { command := c, parameter := b } :: s.hostLog := rfl
@[simp] theorem setResult_d (r : Byte × Bool) : (setResult s r).d = r.1 := rfl
@[simp] theorem setResult_df (r : Byte × Bool) : (setResult s r).df = r.2 := rfl
@[simp] theorem deliverInterrupt_t : (deliverInterrupt s).t = packXP s.x s.p := rfl
@[simp] theorem deliverInterrupt_p : (deliverInterrupt s).p = 1 := rfl
@[simp] theorem deliverInterrupt_x : (deliverInterrupt s).x = 2 := rfl
@[simp] theorem deliverInterrupt_ie : (deliverInterrupt s).ie = false := rfl

end Sys2Proof.Machine
end

