-- ==== Sys2Proof/Laws/Ops.lean ====
section
/-!
SUPPORT. What each shared operation over registers, memory, the Hardware Host and the program
counter can do, said once.
-/

namespace Sys2Proof.Machine

variable (s : State)

/-! ### Scratch registers -/

@[simp] theorem getReg_setReg_same (n : RegNum) (v : Word) : getReg (setReg s n v) n = v := by
  simp [getReg, setReg]

theorem getReg_setReg_other (n m : RegNum) (v : Word) (h : m ≠ n) :
    getReg (setReg s n v) m = getReg s m := by
  have hne : n.toNat ≠ m.toNat := fun e => h (BitVec.eq_of_toNat_eq e.symm)
  simp [getReg, setReg, hne]

theorem getReg_setReg (n m : RegNum) (v : Word) :
    getReg (setReg s n v) m = if m = n then v else getReg s m := by
  by_cases h : m = n
  · subst h; simp
  · simp [h, getReg_setReg_other]

@[simp] theorem setReg_getReg_self (n : RegNum) : setReg s n (getReg s n) = s := by
  simp [setReg, getReg]

/-- Only the register file matters to a read of a register. -/
theorem getReg_congr {s t : State} (h : t.regs = s.regs) (n : RegNum) : getReg t n = getReg s n := by
  simp [getReg, h]

@[simp] theorem getReg_incReg_same (n : RegNum) : getReg (incReg s n) n = getReg s n + 1 := by
  simp [incReg]

theorem getReg_incReg_other (n m : RegNum) (h : m ≠ n) :
    getReg (incReg s n) m = getReg s m := getReg_setReg_other s n m _ h

@[simp] theorem getReg_decReg_same (n : RegNum) : getReg (decReg s n) n = getReg s n - 1 := by
  simp [decReg]

theorem getReg_decReg_other (n m : RegNum) (h : m ≠ n) :
    getReg (decReg s n) m = getReg s m := getReg_setReg_other s n m _ h

@[simp] theorem pc_setPc (w : Word) : pc (setPc s w) = w := by
  simp [pc, setPc]

@[simp] theorem setPc_pc : setPc s (pc s) = s := setReg_getReg_self s s.p

/-! ### Where an instruction continues -/

theorem shortBranch_eq (c : Bool) (a : Byte) :
    shortBranch s c a = setPc s (if c then shortTarget s a else pc s + 1) := by
  cases c <;> rfl

theorem longBranch_eq (c : Bool) (w : Word) :
    longBranch s c w = setPc s (if c then w else pc s + 2) := by
  cases c <;> rfl

theorem longSkip_eq (c : Bool) : longSkip s c = setPc s (if c then pc s + 2 else pc s) := by
  cases c <;> simp [longSkip]

/-! ### Memory -/

/-- A write changes the buffer only. -/
theorem writeByte_eq (a : Word) (v : Byte) :
    writeByte s a v = { s with mem := (writeByte s a v).mem } := by
  unfold writeByte; split <;> rfl

@[simp] theorem writeByte_cfg (a : Word) (v : Byte) : (writeByte s a v).cfg = s.cfg := by
  rw [writeByte_eq]
@[simp] theorem writeByte_regs (a : Word) (v : Byte) : (writeByte s a v).regs = s.regs := by
  rw [writeByte_eq]
@[simp] theorem writeByte_d (a : Word) (v : Byte) : (writeByte s a v).d = s.d := by
  rw [writeByte_eq]
@[simp] theorem writeByte_df (a : Word) (v : Byte) : (writeByte s a v).df = s.df := by
  rw [writeByte_eq]
@[simp] theorem writeByte_p (a : Word) (v : Byte) : (writeByte s a v).p = s.p := by
  rw [writeByte_eq]
@[simp] theorem writeByte_x (a : Word) (v : Byte) : (writeByte s a v).x = s.x := by
  rw [writeByte_eq]
@[simp] theorem writeByte_t (a : Word) (v : Byte) : (writeByte s a v).t = s.t := by
  rw [writeByte_eq]
@[simp] theorem writeByte_ie (a : Word) (v : Byte) : (writeByte s a v).ie = s.ie := by
  rw [writeByte_eq]
@[simp] theorem writeByte_q (a : Word) (v : Byte) : (writeByte s a v).q = s.q := by
  rw [writeByte_eq]
@[simp] theorem writeByte_frameState (a : Word) (v : Byte) : (writeByte s a v).frameState = s.frameState := by
  rw [writeByte_eq]
@[simp] theorem writeByte_budget (a : Word) (v : Byte) : (writeByte s a v).budget = s.budget := by
  rw [writeByte_eq]
@[simp] theorem writeByte_screenEnabled (a : Word) (v : Byte) : (writeByte s a v).screenEnabled = s.screenEnabled := by
  rw [writeByte_eq]
@[simp] theorem writeByte_screenBase (a : Word) (v : Byte) : (writeByte s a v).screenBase = s.screenBase := by
  rw [writeByte_eq]
@[simp] theorem writeByte_scroll (a : Word) (v : Byte) : (writeByte s a v).scroll = s.scroll := by
  rw [writeByte_eq]
@[simp] theorem writeByte_curKey (a : Word) (v : Byte) : (writeByte s a v).curKey = s.curKey := by
  rw [writeByte_eq]
@[simp] theorem writeByte_keyLatch (a : Word) (v : Byte) : (writeByte s a v).keyLatch = s.keyLatch := by
  rw [writeByte_eq]
@[simp] theorem writeByte_hostLog (a : Word) (v : Byte) : (writeByte s a v).hostLog = s.hostLog := by
  rw [writeByte_eq]
@[simp] theorem writeByte_hostAnswers (a : Word) (v : Byte) : (writeByte s a v).hostAnswers = s.hostAnswers := by
  rw [writeByte_eq]

theorem writeByte_mem_ram {s : State} {a : Word} {k : Nat} (h : place s.cfg a = .ram k) (v : Byte) :
    (writeByte s a v).mem = ramWrite s.mem k v := by
  simp [writeByte, h]

/-- A write to no RAM is discarded (R51). -/
theorem writeByte_discarded {s : State} {a : Word} (h : ∀ k, place s.cfg a ≠ .ram k) (v : Byte) :
    writeByte s a v = s := by
  unfold writeByte
  split
  · exact absurd ‹_› (h _)
  · rfl
  · rfl

/-- Only the instance and the buffer matter to a read. -/
theorem readByte_congr {s t : State} (hc : t.cfg = s.cfg) (hm : t.mem = s.mem) (a : Word) :
    readByte t a = readByte s a := by
  simp [readByte, hc, hm]

theorem readByte_ram {s : State} {a : Word} {k : Nat} (h : place s.cfg a = .ram k) :
    readByte s a = ramRead s.mem k := by
  simp [readByte, h]

/-- A read outside RAM depends on the instance alone. -/
theorem readByte_no_ram {s t : State} {a : Word} (hc : t.cfg = s.cfg)
    (h : ∀ k, place s.cfg a ≠ .ram k) : readByte t a = readByte s a := by
  unfold readByte
  rw [hc]
  split
  · exact absurd ‹_› (h _)
  · rfl
  · rfl

/-- Once everything a write can do: the same RAM byte reads as the value, every other address as
before. -/
theorem writeByte_storedAt (a : Word) (v : Byte) : StoredAt s (writeByte s a v) a v := by
  refine ⟨fun b k ha hb => ?_, fun b hb => ?_⟩
  · rw [readByte_ram (k := k) (by simpa using hb), writeByte_mem_ram ha, ramRead_ramWrite_same]
  · by_cases ha : ∃ k, place s.cfg a = .ram k
    · obtain ⟨k, ha⟩ := ha
      by_cases hr : ∃ j, place s.cfg b = .ram j
      · obtain ⟨j, hj⟩ := hr
        have hne : j ≠ k := fun e => hb k ha (e ▸ hj)
        rw [readByte_ram (k := j) (by simpa using hj), writeByte_mem_ram ha,
          ramRead_ramWrite_other _ _ _ _ hne, readByte_ram hj]
      · exact readByte_no_ram (by simp) (fun k e => hr ⟨k, e⟩)
    · rw [writeByte_discarded (fun k e => ha ⟨k, e⟩)]

/-- A stored byte is seen through any state with the same instance and buffer. -/
theorem StoredAt.congr {s t u : State} {a : Word} {v : Byte} (h : StoredAt s t a v)
    (hc : u.cfg = t.cfg) (hm : u.mem = t.mem) : StoredAt s u a v :=
  ⟨fun b k ha hb => (readByte_congr hc hm b).trans (h.1 b k ha hb),
    fun b hb => (readByte_congr hc hm b).trans (h.2 b hb)⟩

/-- What a write does to the buffer depends on the instance and the buffer alone. -/
theorem writeByte_mem_congr {s t : State} (hc : t.cfg = s.cfg) (hm : t.mem = s.mem) (a : Word)
    (v : Byte) : (writeByte t a v).mem = (writeByte s a v).mem := by
  unfold writeByte
  rw [hc]
  split <;> simp [hm]

/-- A load changes the buffer only (R347). -/
theorem loadBytes_eq (a : Word) (data : List Byte) :
    loadBytes s a data = { s with mem := (loadBytes s a data).mem } := by
  induction data generalizing s a with
  | nil => rfl
  | cons b rest ih =>
    simp only [loadBytes]
    rw [ih, writeByte_eq]

@[simp] theorem loadBytes_cfg (a : Word) (data : List Byte) : (loadBytes s a data).cfg = s.cfg := by
  rw [loadBytes_eq]

/-- In a well-formed instance every RAM index of the map is inside the buffer (R51). -/
theorem place_ram_lt {c : Config} (hc : configWf c) {a : Word} {k : Nat}
    (h : place c a = .ram k) : k < c.ramSize := by
  obtain ⟨-, -, -, h4⟩ := hc
  unfold place at h
  split at h
  · simp only [placeA] at h
    split at h
    · cases h; assumption
    · split at h <;> cases h
  · simp only [placeB] at h
    split at h <;> cases h
    assumption
  · have := h4 ‹_›
    simp only [placeC] at h
    split at h
    · cases h
    · split at h <;> cases h
      omega

/-! ### The Hardware Host -/

/-- Once everything a poll can do: the command is recorded, and the answer is the next fixed one or
the free value. -/
theorem hostPoll_cases (c : HostCommand) (b : Byte) :
    (∃ r rest, s.hostAnswers = r :: rest ∧
      hostPoll s c b = (r, { hostCommand s c b with hostAnswers := rest })) ∨
    (s.hostAnswers = [] ∧
      hostPoll s c b = (Config.hostAnswer c b s.hostLog.length, hostCommand s c b)) := by
  unfold hostPoll
  cases h : s.hostAnswers with
  | nil => exact .inr ⟨rfl, rfl⟩
  | cons r rest => exact .inl ⟨r, rest, rfl, rfl⟩

/-- A poll changes the record and the fixed answers only. -/
theorem hostPoll_eq (c : HostCommand) (b : Byte) :
    (hostPoll s c b).2 =
      { s with
        hostLog := { command := c, parameter := b } :: s.hostLog
        hostAnswers := (hostPoll s c b).2.hostAnswers } := by
  unfold hostPoll
  split <;> rfl

@[simp] theorem hostPoll_cfg (c : HostCommand) (b : Byte) : (hostPoll s c b).2.cfg = s.cfg := by
  rw [hostPoll_eq]
@[simp] theorem hostPoll_regs (c : HostCommand) (b : Byte) : (hostPoll s c b).2.regs = s.regs := by
  rw [hostPoll_eq]
@[simp] theorem hostPoll_d (c : HostCommand) (b : Byte) : (hostPoll s c b).2.d = s.d := by
  rw [hostPoll_eq]
@[simp] theorem hostPoll_df (c : HostCommand) (b : Byte) : (hostPoll s c b).2.df = s.df := by
  rw [hostPoll_eq]
@[simp] theorem hostPoll_p (c : HostCommand) (b : Byte) : (hostPoll s c b).2.p = s.p := by
  rw [hostPoll_eq]
@[simp] theorem hostPoll_x (c : HostCommand) (b : Byte) : (hostPoll s c b).2.x = s.x := by
  rw [hostPoll_eq]
@[simp] theorem hostPoll_t (c : HostCommand) (b : Byte) : (hostPoll s c b).2.t = s.t := by
  rw [hostPoll_eq]
@[simp] theorem hostPoll_ie (c : HostCommand) (b : Byte) : (hostPoll s c b).2.ie = s.ie := by
  rw [hostPoll_eq]
@[simp] theorem hostPoll_q (c : HostCommand) (b : Byte) : (hostPoll s c b).2.q = s.q := by
  rw [hostPoll_eq]
@[simp] theorem hostPoll_frameState (c : HostCommand) (b : Byte) : (hostPoll s c b).2.frameState = s.frameState := by
  rw [hostPoll_eq]
@[simp] theorem hostPoll_budget (c : HostCommand) (b : Byte) : (hostPoll s c b).2.budget = s.budget := by
  rw [hostPoll_eq]
@[simp] theorem hostPoll_screenEnabled (c : HostCommand) (b : Byte) : (hostPoll s c b).2.screenEnabled = s.screenEnabled := by
  rw [hostPoll_eq]
@[simp] theorem hostPoll_screenBase (c : HostCommand) (b : Byte) : (hostPoll s c b).2.screenBase = s.screenBase := by
  rw [hostPoll_eq]
@[simp] theorem hostPoll_scroll (c : HostCommand) (b : Byte) : (hostPoll s c b).2.scroll = s.scroll := by
  rw [hostPoll_eq]
@[simp] theorem hostPoll_curKey (c : HostCommand) (b : Byte) : (hostPoll s c b).2.curKey = s.curKey := by
  rw [hostPoll_eq]
@[simp] theorem hostPoll_keyLatch (c : HostCommand) (b : Byte) : (hostPoll s c b).2.keyLatch = s.keyLatch := by
  rw [hostPoll_eq]
@[simp] theorem hostPoll_mem (c : HostCommand) (b : Byte) : (hostPoll s c b).2.mem = s.mem := by
  rw [hostPoll_eq]
@[simp] theorem hostPoll_hostLog (c : HostCommand) (b : Byte) :
    (hostPoll s c b).2.hostLog = { command := c, parameter := b } :: s.hostLog := by
  rw [hostPoll_eq]

end Sys2Proof.Machine
end

