-- ==== Sys2Proof/Laws/Devices.lean ====
section
/-!
SUPPORT. What the I/O dispatch, the external flags, the flag branches and the return can do, said
once each.
-/

namespace Sys2Proof.Machine

variable (s : State)

/-- Once everything `IoOut` can do (R280). -/
theorem ioOut_cases (port : Port) (data : Byte) :
    (port = 0 ∧ ioOut s port data = hostCommand s .updateOutputFlag data) ∨
    (port = 1 ∧ ioOut s port data = { s with screenEnabled := false }) ∨
    (port = 2 ∧ latchKind s.cfg.variant = .select ∧
      ioOut s port data = { s with keyLatch := (fieldOf data).zeroExtend 8 }) ∨
    (port = 2 ∧ latchKind s.cfg.variant = .shift ∧ ioOut s port data = s) ∨
    (port = 4 ∧ hasPort4 s.cfg.variant = true ∧
      ioOut s port data = hostCommand s .updateDisplay data) ∨
    (port = 4 ∧ hasPort4 s.cfg.variant = false ∧ ioOut s port data = s) ∨
    (port ≠ 0 ∧ port ≠ 1 ∧ port ≠ 2 ∧ port ≠ 4 ∧ ioOut s port data = s) := by
  have hp : port = 0 ∨ port = 1 ∨ port = 2 ∨ port = 3 ∨ port = 4 ∨ port = 5 ∨ port = 6 ∨
      port = 7 := by revert port; decide
  rcases hp with rfl | rfl | rfl | rfl | rfl | rfl | rfl | rfl <;>
    cases hk : latchKind s.cfg.variant <;> cases h4 : hasPort4 s.cfg.variant <;>
    simp [ioOut, hk, h4]

/-- Once everything `IoIn` can do (R283, R287, R288). -/
theorem ioIn_cases (port : Port) :
    (port = 1 ∧ ioIn s port = (0x00, { s with screenEnabled := true })) ∨
    (port = 4 ∧ hasPort4 s.cfg.variant = true ∧ ioIn s port = (s.keyLatch, s)) ∨
    (port = 4 ∧ hasPort4 s.cfg.variant = false ∧ ioIn s port = (0x00, s)) ∨
    (port ≠ 1 ∧ port ≠ 4 ∧ ioIn s port = (0x00, s)) := by
  have hp : port = 0 ∨ port = 1 ∨ port = 2 ∨ port = 3 ∨ port = 4 ∨ port = 5 ∨ port = 6 ∨
      port = 7 := by revert port; decide
  rcases hp with rfl | rfl | rfl | rfl | rfl | rfl | rfl | rfl <;>
    cases h4 : hasPort4 s.cfg.variant <;> simp [ioIn, h4]

/-- Once everything a flag test can do (R290 to R293). -/
theorem testFlag_cases (flag : ExternalFlag) :
    (flag = .ef1 ∧ testFlag s flag = (true, s)) ∨
    (flag = .ef2 ∧ testFlag s flag = (false, s)) ∨
    (flag = .ef3 ∧ ef3Patched s = true ∧ testFlag s flag = (s.cfg.ef3PatchValue, s)) ∨
    (flag = .ef3 ∧ ef3Patched s = false ∧ ef3Live s.cfg.variant = true ∧
      testFlag s flag = hostPoll s .readKeyboard s.keyLatch) ∨
    (flag = .ef3 ∧ ef3Patched s = false ∧ ef3Live s.cfg.variant = false ∧
      testFlag s flag = (s.curKey.isSome, s)) ∨
    (flag = .ef4 ∧ testFlag s flag =
      (!(hostPoll s .readSecondaryKey 0).1, (hostPoll s .readSecondaryKey 0).2)) := by
  cases flag <;> cases hp : ef3Patched s <;> cases hl : ef3Live s.cfg.variant <;>
    simp [testFlag, hp, hl]

/-- A flag test changes the record and the fixed answers only. -/
theorem testFlag_eq (flag : ExternalFlag) :
    (testFlag s flag).2 =
      { s with
        hostLog := (testFlag s flag).2.hostLog
        hostAnswers := (testFlag s flag).2.hostAnswers } := by
  rcases testFlag_cases s flag with ⟨-, h⟩ | ⟨-, h⟩ | ⟨-, -, h⟩ | ⟨-, -, -, h⟩ | ⟨-, -, -, h⟩ |
    ⟨-, h⟩ <;> rw [h]
  · rw [hostPoll_hostLog]; exact hostPoll_eq s _ _
  · dsimp only; rw [hostPoll_hostLog]; exact hostPoll_eq s _ _

/-- A flag branch is a jump from the state after the test. -/
theorem branchOnFlag_eq (flag : ExternalFlag) (want : Bool) (a : Byte) :
    branchOnFlag s flag want a =
      setPc (testFlag s flag).2
        (if (testFlag s flag).1 = want then shortTarget s a else pc s + 1) := by
  have hr : (testFlag s flag).2.regs = s.regs := by rw [testFlag_eq]
  have hp : (testFlag s flag).2.p = s.p := by rw [testFlag_eq]
  have hpc : pc (testFlag s flag).2 = pc s := by simp [pc, getReg, hr, hp]
  simp [branchOnFlag, shortBranch_eq, shortTarget, hpc]

/-- A taken target, in integers. -/
theorem shortTarget_eq (a : Byte) : shortTarget s a = pageTarget s a := by
  apply BitVec.eq_of_toNat_eq
  have ha := a.isLt
  have hp := (pc s).isLt
  simp only [shortTarget, pageTarget, joinBytes, hiByte, BitVec.toNat_append,
    BitVec.extractLsb'_toNat, BitVec.toNat_ofNat, Nat.shiftRight_eq_div_pow]
  rw [Nat.shiftLeft_eq, ← Nat.shiftLeft_eq, ← Nat.shiftLeft_add_eq_or_of_lt ha, Nat.shiftLeft_eq]
  omega

end Sys2Proof.Machine
end

