-- ==== Sys2Proof/Laws/Frame.lean ====
section
/-!
SUPPORT. What the Frame Timing State Machine can do, said once for each of its operations.
-/

namespace Sys2Proof.Machine

variable (s : State)

/-- The wake moves at most the program counter (R315). -/
theorem idlWake_eq :
    idlWake s = setPc s (if readByte s (pc s) = 0x00 then pc s + 1 else pc s) := by
  unfold idlWake
  split <;> simp

/-- Once everything the end of Bulk can do (R314). -/
theorem bulkToIP_cases :
    (s.screenEnabled = false ∧
      bulkToIP s = { s with frameState := .interruptPreliminary, budget := ipBudget }) ∨
    (s.screenEnabled = true ∧ s.ie = false ∧
      bulkToIP s = { idlWake s with frameState := .interruptPreliminary, budget := ipBudget }) ∨
    (s.screenEnabled = true ∧ s.ie = true ∧
      bulkToIP s = { deliverInterrupt (idlWake s) with
        frameState := .interruptPreliminary
        budget := ipBudget }) := by
  have hie : (idlWake s).ie = s.ie := by rw [idlWake_eq]; rfl
  cases hs : s.screenEnabled <;> cases hi : s.ie <;>
    simp [bulkToIP, interruptIfEnabled, hs, hie, hi]

/-- Polling keys changes the record and the fixed answers only. -/
theorem pollKeys_eq (keys : List Key) :
    (pollKeys s keys).2 =
      { s with
        hostLog := (pollKeys s keys).2.hostLog
        hostAnswers := (pollKeys s keys).2.hostAnswers } := by
  induction keys generalizing s with
  | nil => rfl
  | cons k rest ih =>
    simp only [pollKeys]
    rw [ih]
    simp

/-- Each key is polled once, in order (R324). -/
theorem pollKeys_hostLog (keys : List Key) :
    (pollKeys s keys).2.hostLog =
      (keys.map (fun k => HostEvent.mk .readKeyboard (k.zeroExtend 8))).reverse ++ s.hostLog := by
  induction keys generalizing s with
  | nil => rfl
  | cons k rest ih =>
    simp only [pollKeys]
    rw [ih]
    simp

/-- With an answer fixed for every key, the polls answer them in order. -/
theorem pollKeys_answers (keys : List Key) (answers rest : List Bool)
    (hl : answers.length = keys.length) (h : s.hostAnswers = answers ++ rest) :
    (pollKeys s keys).1 = answers ∧ (pollKeys s keys).2.hostAnswers = rest := by
  induction keys generalizing s answers with
  | nil =>
    obtain rfl : answers = [] := List.eq_nil_of_length_eq_zero hl
    exact ⟨rfl, h⟩
  | cons k ks ih =>
    obtain _ | ⟨b, bs⟩ := answers
    · simp at hl
    · have hp : hostPoll s .readKeyboard (k.zeroExtend 8) =
          (b, { hostCommand s .readKeyboard (k.zeroExtend 8) with hostAnswers := bs ++ rest }) := by
        simp [hostPoll, h]
      have := ih (hostPoll s .readKeyboard (k.zeroExtend 8)).2 bs (by simpa using hl) (by rw [hp])
      simp only [pollKeys]
      exact ⟨by rw [this.1, hp], this.2⟩

/-- Once everything a key edge can do (R326, R327). -/
theorem keyEdge_cases (k : Option Key) :
    (k = s.curKey ∧ keyEdge s k = s) ∨
    (k ≠ s.curKey ∧ (latchKind s.cfg.variant = .select ∨ k = none) ∧
      keyEdge s k = { s with curKey := k }) ∨
    (∃ key, k ≠ s.curKey ∧ latchKind s.cfg.variant = .shift ∧ k = some key ∧
      keyEdge s k =
        { s with keyLatch := (s.keyLatch <<< 4) ||| key.zeroExtend 8, curKey := k }) := by
  by_cases hc : k = s.curKey
  · exact .inl ⟨hc, by simp [keyEdge, hc]⟩
  · refine .inr ?_
    cases hk : latchKind s.cfg.variant <;> cases k <;> simp [keyEdge, hc, hk]

/-- A key edge changes the latch and curKey only. -/
theorem keyEdge_eq (k : Option Key) :
    keyEdge s k = { s with curKey := k, keyLatch := (keyEdge s k).keyLatch } := by
  rcases keyEdge_cases s k with ⟨hc, h⟩ | ⟨-, -, h⟩ | ⟨key, -, -, -, h⟩ <;> rw [h]
  subst hc; rfl

/-- What the end of InterruptPreliminary changes: no register, no memory, no P, X, T, IE, D, DF or Q
(R321). -/
theorem ipToBulk_eq :
    ipToBulk s =
      { s with
        frameState := .bulk
        budget := s.cfg.bulkBudget
        screenBase := joinBytes (hiByte (getReg s 0) + screenPageOffset s.cfg) 0x00
        scroll := loByte (getReg s 0)
        curKey := (ipToBulk s).curKey
        keyLatch := (ipToBulk s).keyLatch
        hostLog := (ipToBulk s).hostLog
        hostAnswers := (ipToBulk s).hostAnswers } := by
  simp only [ipToBulk]
  rw [keyEdge_eq, pollKeys_eq]
  simp [captureScreen, hostCommand]

/-- Once everything the bookkeeping of an advance can do (R310 to R313). -/
theorem frameTick_cases :
    (2 ≤ s.budget ∧ frameTick s = { s with budget := s.budget - 2 }) ∨
    (s.budget < 2 ∧ s.frameState = .bulk ∧
      frameTick s = bulkToIP { s with budget := s.budget - 2 }) ∨
    (s.budget < 2 ∧ s.frameState = .interruptPreliminary ∧
      frameTick s = ipToBulk { s with budget := s.budget - 2 }) := by
  by_cases hb : s.budget < 2
  · have h : s.budget - 2 < 0 := by omega
    cases hf : s.frameState <;> simp [frameTick, stepCost, h, hb, hf]
  · have h : ¬s.budget - 2 < 0 := by omega
    exact .inl ⟨by omega, by simp [frameTick, stepCost, h]⟩

/-- The bookkeeping leaves the instance, the memory, D, DF, Q and the screen flag alone. -/
theorem frameTick_keeps :
    (frameTick s).cfg = s.cfg ∧ (frameTick s).mem = s.mem ∧ (frameTick s).d = s.d ∧
      (frameTick s).df = s.df ∧ (frameTick s).q = s.q ∧
      (frameTick s).screenEnabled = s.screenEnabled := by
  rcases frameTick_cases s with ⟨-, h⟩ | ⟨-, -, h⟩ | ⟨-, -, h⟩
  · rw [h]; simp
  · rw [h]
    rcases bulkToIP_cases { s with budget := s.budget - 2 } with ⟨-, h⟩ | ⟨-, -, h⟩ | ⟨-, -, h⟩ <;>
      rw [h] <;> simp [idlWake_eq]
  · rw [h, ipToBulk_eq]; simp

end Sys2Proof.Machine
end

