-- ==== Sys2Proof/Laws/Step.lean ====
section
/-!
SUPPORT. What one advance can do, said once, and what every execute phase leaves alone.
-/

namespace Sys2Proof.Machine

variable {s t : State}

/-- Every meaning answers a next state. -/
theorem exec_isNext (i : Instr) (s : State) : ∃ t, exec i s = .next t := by
  cases i <;> exact ⟨_, rfl⟩

theorem step_of_wf (h : configWf s.cfg) :
    step s = match exec (fetchInstr s) (afterFetch s) with
      | .next s1 => .next (frameTick s1)
      | .fault r => .fault r
      | .refused r => .refused r := if_pos h

/-- An advance that ends in a next state is one execute phase and one bookkeeping (R310). -/
theorem step_next (h : step s = .next t) :
    configWf s.cfg ∧ ∃ u, exec (fetchInstr s) (afterFetch s) = .next u ∧ t = frameTick u := by
  by_cases hw : configWf s.cfg
  · obtain ⟨u, hu⟩ := exec_isNext (fetchInstr s) (afterFetch s)
    rw [step_of_wf hw, hu] at h
    exact ⟨hw, u, hu, by injection h with h; exact h.symm⟩
  · rw [step, if_neg hw] at h
    cases h

/-- A run of one more advance. -/
theorem core_run_succ (k : Nat) (h : step s = .next t) : core.run (k + 1) s = core.run k t := by
  simp only [Host.Core.run, show core.step s = .next t from h]

theorem afterFetch_eq (s : State) : afterFetch s = setReg s s.p (getReg s s.p + 1) := rfl

/-- What no execute phase changes: the instance, the frame machine's state, the captured screen and
the sampled key (10_state.md R37). -/
theorem exec_keeps (i : Instr) (h : exec i s = .next t) :
    t.cfg = s.cfg ∧ t.frameState = s.frameState ∧ t.budget = s.budget ∧
      t.screenBase = s.screenBase ∧ t.scroll = s.scroll ∧ t.curKey = s.curKey := by
  have hflag : ∀ f w a, branchOnFlag s f w a = t →
      t.cfg = s.cfg ∧ t.frameState = s.frameState ∧ t.budget = s.budget ∧
        t.screenBase = s.screenBase ∧ t.scroll = s.scroll ∧ t.curKey = s.curKey := by
    rintro f w a rfl
    rw [branchOnFlag_eq, testFlag_eq]
    simp
  have hout : ∀ (u : State) p b,
      (ioOut u p b).cfg = u.cfg ∧ (ioOut u p b).frameState = u.frameState ∧
        (ioOut u p b).budget = u.budget ∧ (ioOut u p b).screenBase = u.screenBase ∧
        (ioOut u p b).scroll = u.scroll ∧ (ioOut u p b).curKey = u.curKey := by
    intro u p b
    rcases ioOut_cases u p b with ⟨-, h⟩ | ⟨-, h⟩ | ⟨-, -, h⟩ | ⟨-, -, h⟩ | ⟨-, -, h⟩ | ⟨-, -, h⟩ |
      ⟨-, -, -, -, h⟩ <;> rw [h] <;> simp
  cases i <;> injection h with h
  case b1 | b2 | b3 | b4 | bn1 | bn2 | bn3 | bn4 => exact hflag _ _ _ h
  case seq | req | out => subst h; exact hout _ _ _
  case inp port =>
    subst h
    rcases ioIn_cases s port with ⟨-, h⟩ | ⟨-, -, h⟩ | ⟨-, -, h⟩ | ⟨-, -, h⟩ <;> rw [h] <;> simp
  all_goals
    subst h
    simp [shortBranch_eq, longBranch_eq, longSkip_eq, returnWith]

end Sys2Proof.Machine
end

