-- ==== Sys2Proof/Laws/HostInterface.lean ====
section
/-!
SUPPORT. `State.reset` is the reset procedure at one instance and one set of draws, and an instruction
placed at the program counter is the one fetched.
-/

namespace Sys2Proof.Machine

theorem ramOfBytes_replicate_zero (start n : Nat) :
    ramOfBytes start (List.replicate n 0x00) = [] := by
  induction n generalizing start with
  | zero => rfl
  | succ n ih => rw [List.replicate_succ, ramOfBytes, ih]; rfl

/-- The draws of `State.reset` (log entries 2 and 3). -/
def zeroDraws : ResetDraws where
  d := 0
  t := 0
  df := false
  regs := Vector.replicate 16 0
  screenBase := 0
  scroll := 0

/-- `State.reset` is the first reset of the reference instance with a buffer of zero bytes and zero
draws (R360; log entries 1 to 4). -/
theorem reset_eq_firstReset :
    firstReset Config.reference [] zeroDraws (some (List.replicate 4096 0x00)) =
      .next State.reset := by
  have hb : bindRam (List.replicate 4096 0x00)
      { State.reset with cfg := Config.reference, hostAnswers := [] } = State.reset := by
    simp only [bindRam, ramOfBytes_replicate_zero, List.length_replicate]
    rfl
  simp only [firstReset, resetOp, hb]
  rw [if_pos (by decide)]
  rfl

/-- An instruction stored where the next fetch is, is the one fetched, when its three addresses are
three bytes of RAM (R95, R347; log entry 14). -/
theorem fetchInstr_withFetchWord (s : State) (nbits w k0 k1 k2 : Nat)
    (h0 : place s.cfg (pc s) = .ram k0) (h1 : place s.cfg (pc s + 1) = .ram k1)
    (h2 : place s.cfg (pc s + 2) = .ram k2) (h01 : k0 ≠ k1) (h02 : k0 ≠ k2) (h12 : k1 ≠ k2) :
    ∃ b0 b1 b2, bytesOfNat (w % 2 ^ nbits) maxLength = [b0, b1, b2] ∧
      fetchInstr (s.withFetchWord nbits w) = decodeOp b0 b1 b2 := by
  refine ⟨_, _, _, rfl, ?_⟩
  have hpc : pc (s.withFetchWord nbits w) = pc s := by
    unfold State.withFetchWord storeFetchWord
    rw [loadBytes_eq]
    rfl
  have ha : pc s + 1 + 1 = pc s + 2 := by
    rw [BitVec.add_assoc]
    rfl
  have hm : (s.withFetchWord nbits w).mem =
      ramWrite (ramWrite (ramWrite s.mem k0 (BitVec.ofNat 8 (w % 2 ^ nbits))) k1
        (BitVec.ofNat 8 (w % 2 ^ nbits / 256))) k2 (BitVec.ofNat 8 (w % 2 ^ nbits / 256 / 256)) := by
    simp only [State.withFetchWord, storeFetchWord, maxLength, bytesOfNat, loadBytes, ha]
    rw [writeByte_mem_ram (by simpa using h2), writeByte_mem_ram (by simpa using h1),
      writeByte_mem_ram h0]
  have hc : (s.withFetchWord nbits w).cfg = s.cfg := loadBytes_cfg _ _ _
  simp only [fetchInstr, hpc]
  rw [readByte_ram (k := k0) (by rw [hc]; exact h0), readByte_ram (k := k1) (by rw [hc]; exact h1),
    readByte_ram (k := k2) (by rw [hc]; exact h2), hm]
  rw [ramRead_ramWrite_same, ramRead_ramWrite_other _ _ _ _ h12, ramRead_ramWrite_same,
    ramRead_ramWrite_other _ _ _ _ h02, ramRead_ramWrite_other _ _ _ _ h01, ramRead_ramWrite_same]

end Sys2Proof.Machine
end

