-- ==== Sys2Proof/Laws/PerInstr.lean ====
section
/-!
SUPPORT. A statement about every instruction as syntax: its first byte matches its row of
spec/opcode_table.json, and its length is the row's (spec/30_encoding.md R92, R97). The mask, the match
value and the length are copied from the table, not taken from the encoder.
-/

namespace Sys2Proof.Laws

/-- One row of the opcode table: the bits that are fixed, their value, the length in bytes. -/
structure MapRow where
  mask : Nat
  pattern : Nat
  length : Nat
deriving DecidableEq, Repr

/-- The row of each instruction, from spec/opcode_table.json. -/
def mapRow : Instr → MapRow
  | .ldn _ => ⟨0xF0, 0x00, 1⟩
  | .lda _ => ⟨0xF0, 0x40, 1⟩
  | .ldx => ⟨0xFF, 0xF0, 1⟩
  | .ldxa => ⟨0xFF, 0x72, 1⟩
  | .ldi _ => ⟨0xFF, 0xF8, 2⟩
  | .str _ => ⟨0xF0, 0x50, 1⟩
  | .stxd => ⟨0xFF, 0x73, 1⟩
  | .inc _ => ⟨0xF0, 0x10, 1⟩
  | .dec _ => ⟨0xF0, 0x20, 1⟩
  | .irx => ⟨0xFF, 0x60, 1⟩
  | .glo _ => ⟨0xF0, 0x80, 1⟩
  | .ghi _ => ⟨0xF0, 0x90, 1⟩
  | .plo _ => ⟨0xF0, 0xA0, 1⟩
  | .phi _ => ⟨0xF0, 0xB0, 1⟩
  | .or => ⟨0xFF, 0xF1, 1⟩
  | .ori _ => ⟨0xFF, 0xF9, 2⟩
  | .xor => ⟨0xFF, 0xF3, 1⟩
  | .xri _ => ⟨0xFF, 0xFB, 2⟩
  | .and => ⟨0xFF, 0xF2, 1⟩
  | .ani _ => ⟨0xFF, 0xFA, 2⟩
  | .shr => ⟨0xFF, 0xF6, 1⟩
  | .shrc => ⟨0xFF, 0x76, 1⟩
  | .shl => ⟨0xFF, 0xFE, 1⟩
  | .shlc => ⟨0xFF, 0x7E, 1⟩
  | .add => ⟨0xFF, 0xF4, 1⟩
  | .adi _ => ⟨0xFF, 0xFC, 2⟩
  | .adc => ⟨0xFF, 0x74, 1⟩
  | .adci _ => ⟨0xFF, 0x7C, 2⟩
  | .sd => ⟨0xFF, 0xF5, 1⟩
  | .sdi _ => ⟨0xFF, 0xFD, 2⟩
  | .sdb => ⟨0xFF, 0x75, 1⟩
  | .sdbi _ => ⟨0xFF, 0x7D, 2⟩
  | .sm => ⟨0xFF, 0xF7, 1⟩
  | .smi _ => ⟨0xFF, 0xFF, 2⟩
  | .smb => ⟨0xFF, 0x77, 1⟩
  | .smbi _ => ⟨0xFF, 0x7F, 2⟩
  | .br _ => ⟨0xFF, 0x30, 2⟩
  | .bq _ => ⟨0xFF, 0x31, 2⟩
  | .bz _ => ⟨0xFF, 0x32, 2⟩
  | .bdf _ => ⟨0xFF, 0x33, 2⟩
  | .b1 _ => ⟨0xFF, 0x34, 2⟩
  | .b2 _ => ⟨0xFF, 0x35, 2⟩
  | .b3 _ => ⟨0xFF, 0x36, 2⟩
  | .b4 _ => ⟨0xFF, 0x37, 2⟩
  | .skp => ⟨0xFF, 0x38, 1⟩
  | .bnq _ => ⟨0xFF, 0x39, 2⟩
  | .bnz _ => ⟨0xFF, 0x3A, 2⟩
  | .bnf _ => ⟨0xFF, 0x3B, 2⟩
  | .bn1 _ => ⟨0xFF, 0x3C, 2⟩
  | .bn2 _ => ⟨0xFF, 0x3D, 2⟩
  | .bn3 _ => ⟨0xFF, 0x3E, 2⟩
  | .bn4 _ => ⟨0xFF, 0x3F, 2⟩
  | .lbr _ => ⟨0xFF, 0xC0, 3⟩
  | .lbq _ => ⟨0xFF, 0xC1, 3⟩
  | .lbz _ => ⟨0xFF, 0xC2, 3⟩
  | .lbdf _ => ⟨0xFF, 0xC3, 3⟩
  | .nop => ⟨0xFF, 0xC4, 1⟩
  | .lsnq => ⟨0xFF, 0xC5, 1⟩
  | .lsnz => ⟨0xFF, 0xC6, 1⟩
  | .lsnf => ⟨0xFF, 0xC7, 1⟩
  | .lskp => ⟨0xFF, 0xC8, 1⟩
  | .lbnq _ => ⟨0xFF, 0xC9, 3⟩
  | .lbnz _ => ⟨0xFF, 0xCA, 3⟩
  | .lbnf _ => ⟨0xFF, 0xCB, 3⟩
  | .lsie => ⟨0xFF, 0xCC, 1⟩
  | .lsq => ⟨0xFF, 0xCD, 1⟩
  | .lsz => ⟨0xFF, 0xCE, 1⟩
  | .lsdf => ⟨0xFF, 0xCF, 1⟩
  | .idl => ⟨0xFF, 0x00, 1⟩
  | .sep _ => ⟨0xF0, 0xD0, 1⟩
  | .sex _ => ⟨0xF0, 0xE0, 1⟩
  | .seq => ⟨0xFF, 0x7B, 1⟩
  | .req => ⟨0xFF, 0x7A, 1⟩
  | .sav => ⟨0xFF, 0x78, 1⟩
  | .mark => ⟨0xFF, 0x79, 1⟩
  | .ret => ⟨0xFF, 0x70, 1⟩
  | .dis => ⟨0xFF, 0x71, 1⟩
  | .unassigned68 => ⟨0xFF, 0x68, 1⟩
  | .out _ => ⟨0xF8, 0x60, 1⟩
  | .inp _ => ⟨0xF8, 0x68, 1⟩

/-- The bytes of a well-formed instruction begin with an opcode byte of its row, and there are as many
as the row says; the opcode byte alone tells so. -/
def OpcodeRow.Statement (i : Instr) : Prop :=
  i.WellFormed = true →
    (encode i).length = (mapRow i).length ∧
      ∃ op ∈ (encode i).head?, op.toNat &&& (mapRow i).mask = (mapRow i).pattern ∧
        opcodeLength op = (mapRow i).length

/-- The statement, from the bytes, the row and the check of the opcode byte against the row. -/
theorem opcodeRow_intro {i : Instr} {op : Byte} {rest : List Byte} {row : MapRow}
    (he : encode i = op :: rest) (hr : mapRow i = row) (hl : rest.length + 1 = row.length)
    (hm : op.toNat &&& row.mask = row.pattern) (ho : opcodeLength op = row.length) :
    OpcodeRow.Statement i := by
  intro _
  rw [he, hr]
  exact ⟨hl, op, rfl, hm, ho⟩

namespace OpcodeRow

theorem ldn (n : RegNum) : Statement (.ldn n) := by
  revert n; unfold Statement; decide +kernel

theorem lda (n : RegNum) : Statement (.lda n) := by
  revert n; unfold Statement; decide +kernel

theorem ldx : Statement (.ldx) :=
  opcodeRow_intro (row := ⟨0xFF, 0xF0, 1⟩) rfl rfl rfl (by decide) rfl

theorem ldxa : Statement (.ldxa) :=
  opcodeRow_intro (row := ⟨0xFF, 0x72, 1⟩) rfl rfl rfl (by decide) rfl

theorem ldi (imm : Byte) : Statement (.ldi imm) :=
  opcodeRow_intro (row := ⟨0xFF, 0xF8, 2⟩) rfl rfl rfl (by decide) rfl

theorem str (n : RegNum) : Statement (.str n) := by
  revert n; unfold Statement; decide +kernel

theorem stxd : Statement (.stxd) :=
  opcodeRow_intro (row := ⟨0xFF, 0x73, 1⟩) rfl rfl rfl (by decide) rfl

theorem inc (n : RegNum) : Statement (.inc n) := by
  revert n; unfold Statement; decide +kernel

theorem dec (n : RegNum) : Statement (.dec n) := by
  revert n; unfold Statement; decide +kernel

theorem irx : Statement (.irx) :=
  opcodeRow_intro (row := ⟨0xFF, 0x60, 1⟩) rfl rfl rfl (by decide) rfl

theorem glo (n : RegNum) : Statement (.glo n) := by
  revert n; unfold Statement; decide +kernel

theorem ghi (n : RegNum) : Statement (.ghi n) := by
  revert n; unfold Statement; decide +kernel

theorem plo (n : RegNum) : Statement (.plo n) := by
  revert n; unfold Statement; decide +kernel

theorem phi (n : RegNum) : Statement (.phi n) := by
  revert n; unfold Statement; decide +kernel

theorem or : Statement (.or) :=
  opcodeRow_intro (row := ⟨0xFF, 0xF1, 1⟩) rfl rfl rfl (by decide) rfl

theorem ori (imm : Byte) : Statement (.ori imm) :=
  opcodeRow_intro (row := ⟨0xFF, 0xF9, 2⟩) rfl rfl rfl (by decide) rfl

theorem xor : Statement (.xor) :=
  opcodeRow_intro (row := ⟨0xFF, 0xF3, 1⟩) rfl rfl rfl (by decide) rfl

theorem xri (imm : Byte) : Statement (.xri imm) :=
  opcodeRow_intro (row := ⟨0xFF, 0xFB, 2⟩) rfl rfl rfl (by decide) rfl

theorem and : Statement (.and) :=
  opcodeRow_intro (row := ⟨0xFF, 0xF2, 1⟩) rfl rfl rfl (by decide) rfl

theorem ani (imm : Byte) : Statement (.ani imm) :=
  opcodeRow_intro (row := ⟨0xFF, 0xFA, 2⟩) rfl rfl rfl (by decide) rfl

theorem shr : Statement (.shr) :=
  opcodeRow_intro (row := ⟨0xFF, 0xF6, 1⟩) rfl rfl rfl (by decide) rfl

theorem shrc : Statement (.shrc) :=
  opcodeRow_intro (row := ⟨0xFF, 0x76, 1⟩) rfl rfl rfl (by decide) rfl

theorem shl : Statement (.shl) :=
  opcodeRow_intro (row := ⟨0xFF, 0xFE, 1⟩) rfl rfl rfl (by decide) rfl

theorem shlc : Statement (.shlc) :=
  opcodeRow_intro (row := ⟨0xFF, 0x7E, 1⟩) rfl rfl rfl (by decide) rfl

theorem add : Statement (.add) :=
  opcodeRow_intro (row := ⟨0xFF, 0xF4, 1⟩) rfl rfl rfl (by decide) rfl

theorem adi (imm : Byte) : Statement (.adi imm) :=
  opcodeRow_intro (row := ⟨0xFF, 0xFC, 2⟩) rfl rfl rfl (by decide) rfl

theorem adc : Statement (.adc) :=
  opcodeRow_intro (row := ⟨0xFF, 0x74, 1⟩) rfl rfl rfl (by decide) rfl

theorem adci (imm : Byte) : Statement (.adci imm) :=
  opcodeRow_intro (row := ⟨0xFF, 0x7C, 2⟩) rfl rfl rfl (by decide) rfl

theorem sd : Statement (.sd) :=
  opcodeRow_intro (row := ⟨0xFF, 0xF5, 1⟩) rfl rfl rfl (by decide) rfl

theorem sdi (imm : Byte) : Statement (.sdi imm) :=
  opcodeRow_intro (row := ⟨0xFF, 0xFD, 2⟩) rfl rfl rfl (by decide) rfl

theorem sdb : Statement (.sdb) :=
  opcodeRow_intro (row := ⟨0xFF, 0x75, 1⟩) rfl rfl rfl (by decide) rfl

theorem sdbi (imm : Byte) : Statement (.sdbi imm) :=
  opcodeRow_intro (row := ⟨0xFF, 0x7D, 2⟩) rfl rfl rfl (by decide) rfl

theorem sm : Statement (.sm) :=
  opcodeRow_intro (row := ⟨0xFF, 0xF7, 1⟩) rfl rfl rfl (by decide) rfl

theorem smi (imm : Byte) : Statement (.smi imm) :=
  opcodeRow_intro (row := ⟨0xFF, 0xFF, 2⟩) rfl rfl rfl (by decide) rfl

theorem smb : Statement (.smb) :=
  opcodeRow_intro (row := ⟨0xFF, 0x77, 1⟩) rfl rfl rfl (by decide) rfl

theorem smbi (imm : Byte) : Statement (.smbi imm) :=
  opcodeRow_intro (row := ⟨0xFF, 0x7F, 2⟩) rfl rfl rfl (by decide) rfl

theorem br (a : Byte) : Statement (.br a) :=
  opcodeRow_intro (row := ⟨0xFF, 0x30, 2⟩) rfl rfl rfl (by decide) rfl

theorem bq (a : Byte) : Statement (.bq a) :=
  opcodeRow_intro (row := ⟨0xFF, 0x31, 2⟩) rfl rfl rfl (by decide) rfl

theorem bz (a : Byte) : Statement (.bz a) :=
  opcodeRow_intro (row := ⟨0xFF, 0x32, 2⟩) rfl rfl rfl (by decide) rfl

theorem bdf (a : Byte) : Statement (.bdf a) :=
  opcodeRow_intro (row := ⟨0xFF, 0x33, 2⟩) rfl rfl rfl (by decide) rfl

theorem b1 (a : Byte) : Statement (.b1 a) :=
  opcodeRow_intro (row := ⟨0xFF, 0x34, 2⟩) rfl rfl rfl (by decide) rfl

theorem b2 (a : Byte) : Statement (.b2 a) :=
  opcodeRow_intro (row := ⟨0xFF, 0x35, 2⟩) rfl rfl rfl (by decide) rfl

theorem b3 (a : Byte) : Statement (.b3 a) :=
  opcodeRow_intro (row := ⟨0xFF, 0x36, 2⟩) rfl rfl rfl (by decide) rfl

theorem b4 (a : Byte) : Statement (.b4 a) :=
  opcodeRow_intro (row := ⟨0xFF, 0x37, 2⟩) rfl rfl rfl (by decide) rfl

theorem skp : Statement (.skp) :=
  opcodeRow_intro (row := ⟨0xFF, 0x38, 1⟩) rfl rfl rfl (by decide) rfl

theorem bnq (a : Byte) : Statement (.bnq a) :=
  opcodeRow_intro (row := ⟨0xFF, 0x39, 2⟩) rfl rfl rfl (by decide) rfl

theorem bnz (a : Byte) : Statement (.bnz a) :=
  opcodeRow_intro (row := ⟨0xFF, 0x3A, 2⟩) rfl rfl rfl (by decide) rfl

theorem bnf (a : Byte) : Statement (.bnf a) :=
  opcodeRow_intro (row := ⟨0xFF, 0x3B, 2⟩) rfl rfl rfl (by decide) rfl

theorem bn1 (a : Byte) : Statement (.bn1 a) :=
  opcodeRow_intro (row := ⟨0xFF, 0x3C, 2⟩) rfl rfl rfl (by decide) rfl

theorem bn2 (a : Byte) : Statement (.bn2 a) :=
  opcodeRow_intro (row := ⟨0xFF, 0x3D, 2⟩) rfl rfl rfl (by decide) rfl

theorem bn3 (a : Byte) : Statement (.bn3 a) :=
  opcodeRow_intro (row := ⟨0xFF, 0x3E, 2⟩) rfl rfl rfl (by decide) rfl

theorem bn4 (a : Byte) : Statement (.bn4 a) :=
  opcodeRow_intro (row := ⟨0xFF, 0x3F, 2⟩) rfl rfl rfl (by decide) rfl

theorem lbr (target : Word) : Statement (.lbr target) :=
  opcodeRow_intro (row := ⟨0xFF, 0xC0, 3⟩) rfl rfl rfl (by decide) rfl

theorem lbq (target : Word) : Statement (.lbq target) :=
  opcodeRow_intro (row := ⟨0xFF, 0xC1, 3⟩) rfl rfl rfl (by decide) rfl

theorem lbz (target : Word) : Statement (.lbz target) :=
  opcodeRow_intro (row := ⟨0xFF, 0xC2, 3⟩) rfl rfl rfl (by decide) rfl

theorem lbdf (target : Word) : Statement (.lbdf target) :=
  opcodeRow_intro (row := ⟨0xFF, 0xC3, 3⟩) rfl rfl rfl (by decide) rfl

theorem nop : Statement (.nop) :=
  opcodeRow_intro (row := ⟨0xFF, 0xC4, 1⟩) rfl rfl rfl (by decide) rfl

theorem lsnq : Statement (.lsnq) :=
  opcodeRow_intro (row := ⟨0xFF, 0xC5, 1⟩) rfl rfl rfl (by decide) rfl

theorem lsnz : Statement (.lsnz) :=
  opcodeRow_intro (row := ⟨0xFF, 0xC6, 1⟩) rfl rfl rfl (by decide) rfl

theorem lsnf : Statement (.lsnf) :=
  opcodeRow_intro (row := ⟨0xFF, 0xC7, 1⟩) rfl rfl rfl (by decide) rfl

theorem lskp : Statement (.lskp) :=
  opcodeRow_intro (row := ⟨0xFF, 0xC8, 1⟩) rfl rfl rfl (by decide) rfl

theorem lbnq (target : Word) : Statement (.lbnq target) :=
  opcodeRow_intro (row := ⟨0xFF, 0xC9, 3⟩) rfl rfl rfl (by decide) rfl

theorem lbnz (target : Word) : Statement (.lbnz target) :=
  opcodeRow_intro (row := ⟨0xFF, 0xCA, 3⟩) rfl rfl rfl (by decide) rfl

theorem lbnf (target : Word) : Statement (.lbnf target) :=
  opcodeRow_intro (row := ⟨0xFF, 0xCB, 3⟩) rfl rfl rfl (by decide) rfl

theorem lsie : Statement (.lsie) :=
  opcodeRow_intro (row := ⟨0xFF, 0xCC, 1⟩) rfl rfl rfl (by decide) rfl

theorem lsq : Statement (.lsq) :=
  opcodeRow_intro (row := ⟨0xFF, 0xCD, 1⟩) rfl rfl rfl (by decide) rfl

theorem lsz : Statement (.lsz) :=
  opcodeRow_intro (row := ⟨0xFF, 0xCE, 1⟩) rfl rfl rfl (by decide) rfl

theorem lsdf : Statement (.lsdf) :=
  opcodeRow_intro (row := ⟨0xFF, 0xCF, 1⟩) rfl rfl rfl (by decide) rfl

theorem idl : Statement (.idl) :=
  opcodeRow_intro (row := ⟨0xFF, 0x00, 1⟩) rfl rfl rfl (by decide) rfl

theorem sep (n : RegNum) : Statement (.sep n) := by
  revert n; unfold Statement; decide +kernel

theorem sex (n : RegNum) : Statement (.sex n) := by
  revert n; unfold Statement; decide +kernel

theorem seq : Statement (.seq) :=
  opcodeRow_intro (row := ⟨0xFF, 0x7B, 1⟩) rfl rfl rfl (by decide) rfl

theorem req : Statement (.req) :=
  opcodeRow_intro (row := ⟨0xFF, 0x7A, 1⟩) rfl rfl rfl (by decide) rfl

theorem sav : Statement (.sav) :=
  opcodeRow_intro (row := ⟨0xFF, 0x78, 1⟩) rfl rfl rfl (by decide) rfl

theorem mark : Statement (.mark) :=
  opcodeRow_intro (row := ⟨0xFF, 0x79, 1⟩) rfl rfl rfl (by decide) rfl

theorem ret : Statement (.ret) :=
  opcodeRow_intro (row := ⟨0xFF, 0x70, 1⟩) rfl rfl rfl (by decide) rfl

theorem dis : Statement (.dis) :=
  opcodeRow_intro (row := ⟨0xFF, 0x71, 1⟩) rfl rfl rfl (by decide) rfl

theorem unassigned68 : Statement (.unassigned68) :=
  opcodeRow_intro (row := ⟨0xFF, 0x68, 1⟩) rfl rfl rfl (by decide) rfl

theorem out (port : Port) : Statement (.out port) := by
  revert port; unfold Statement; decide +kernel

theorem inp (port : Port) : Statement (.inp port) := by
  revert port; unfold Statement; decide +kernel

end OpcodeRow

end Sys2Proof.Laws
end

