-- ==== Sys2Proof/Tests/Slice0.lean ====
section
/-!
SUPPORT. The model's own tests: the well-formedness smoke tests, one word of every instruction written
out bit by bit from spec/30_encoding.md R97, one-step tests whose expected results are the vectors of
spec/95_test_vectors.md, and for every statement with hypotheses a witness that meets them.
-/

namespace Sys2Proof.Tests

open Sys2Proof.Machine

/-! ### Helpers -/

/-- The reset state about to fetch these bytes at this address. -/
def running (a : Word) (bytes : List Byte) : State := loadBytes (setPc State.reset a) a bytes

/-- What one advance leaves, seen through `f`; none when it does not end in a next state. -/
def observed {α : Type} (s : State) (f : State → α) : Option α :=
  match step s with
  | .next t => some (f t)
  | .fault _ => none
  | .refused _ => none

/-- What a reset leaves, seen through `f`. -/
def observedReset {α : Type} (o : Host.Outcome State Fault Refusal) (f : State → α) : Option α :=
  match o with
  | .next t => some (f t)
  | .fault _ => none
  | .refused _ => none

/-- The whole of these bytes is this instruction. -/
def decodesTo (bytes : List Byte) (i : Instr) : Bool :=
  match decode bytes with
  | .ok (j, []) => decide (j = i)
  | _ => false

/-- A Variant A instance: RAM_SIZE 0x1000 and a two-byte image at 0x8000, the flag-3 patch at 0x0301
with latch 5, the preload D = 0x11, P = 3, X = 4, R[2] = 0x0FFF. -/
def configA : Config :=
  { Config.reference with
    variant := .a
    romABase := 0x8000
    romAImage := [0xC4, 0x3E]
    preloadD := 0x11
    preloadP := 3
    preloadX := 4
    preloadR2 := 0x0FFF
    ef3PatchPc := 0x0301
    ef3PatchLatch := 5
    ef3PatchValue := true }

/-- A Variant C instance: a two-byte image, 512 bytes of RAM, a page offset of 2. -/
def configC : Config :=
  { Config.reference with variant := .c, ramSize := 512, romCImage := [0xC4, 0x3E], pageOffsetC := 2 }

/-- The reset state of another instance. -/
def resetOf (c : Config) : State := { State.reset with cfg := c, budget := c.bulkBudget }

/-! ### Well-formedness: a term that no encoding holds, for each check -/

theorem test_ldn_zero_is_refused : (Instr.ldn 0).WellFormed = false := by decide
theorem test_out_zero_is_refused : (Instr.out 0).WellFormed = false := by decide
theorem test_inp_zero_is_refused : (Instr.inp 0).WellFormed = false := by decide
theorem test_truncated_is_refused : decode [0xC0, 0x12] = .error (.truncated 0xC0) := rfl
theorem test_nothing_is_refused : decode [] = .error .noBytes := rfl

/-! ### Decoding: every instruction's word, bit by bit (R97) -/

theorem test_decode_memory_reference :
    decodesTo [0b0000_0001] (.ldn 1) ∧ decodesTo [0b0000_1111] (.ldn 15) ∧
    decodesTo [0b0100_0011] (.lda 3) ∧ decodesTo [0b1111_0000] .ldx ∧
    decodesTo [0b0111_0010] .ldxa ∧ decodesTo [0b1111_1000, 0x7F] (.ldi 0x7F) ∧
    decodesTo [0b0101_0100] (.str 4) ∧ decodesTo [0b0111_0011] .stxd := by decide

theorem test_decode_register_operations :
    decodesTo [0b0001_0111] (.inc 7) ∧ decodesTo [0b0010_0111] (.dec 7) ∧
    decodesTo [0b0110_0000] .irx ∧ decodesTo [0b1000_1010] (.glo 10) ∧
    decodesTo [0b1001_1010] (.ghi 10) ∧ decodesTo [0b1010_0011] (.plo 3) ∧
    decodesTo [0b1011_0011] (.phi 3) := by decide

theorem test_decode_logic :
    decodesTo [0b1111_0001] .or ∧ decodesTo [0b1111_1001, 0x5A] (.ori 0x5A) ∧
    decodesTo [0b1111_0011] .xor ∧ decodesTo [0b1111_1011, 0xFF] (.xri 0xFF) ∧
    decodesTo [0b1111_0010] .and ∧ decodesTo [0b1111_1010, 0x0F] (.ani 0x0F) ∧
    decodesTo [0b1111_0110] .shr ∧ decodesTo [0b0111_0110] .shrc ∧
    decodesTo [0b1111_1110] .shl ∧ decodesTo [0b0111_1110] .shlc := by decide

theorem test_decode_arithmetic :
    decodesTo [0b1111_0100] .add ∧ decodesTo [0b1111_1100, 0x80] (.adi 0x80) ∧
    decodesTo [0b0111_0100] .adc ∧ decodesTo [0b0111_1100, 0x01] (.adci 0x01) ∧
    decodesTo [0b1111_0101] .sd ∧ decodesTo [0b1111_1101, 0x02] (.sdi 0x02) ∧
    decodesTo [0b0111_0101] .sdb ∧ decodesTo [0b0111_1101, 0x05] (.sdbi 0x05) ∧
    decodesTo [0b1111_0111] .sm ∧ decodesTo [0b1111_1111, 0x06] (.smi 0x06) ∧
    decodesTo [0b0111_0111] .smb ∧ decodesTo [0b0111_1111, 0x07] (.smbi 0x07) := by decide

theorem test_decode_short_branch :
    decodesTo [0b0011_0000, 0x20] (.br 0x20) ∧ decodesTo [0b0011_0001, 0x21] (.bq 0x21) ∧
    decodesTo [0b0011_0010, 0x22] (.bz 0x22) ∧ decodesTo [0b0011_0011, 0x23] (.bdf 0x23) ∧
    decodesTo [0b0011_0100, 0x24] (.b1 0x24) ∧ decodesTo [0b0011_0101, 0x25] (.b2 0x25) ∧
    decodesTo [0b0011_0110, 0x26] (.b3 0x26) ∧ decodesTo [0b0011_0111, 0x27] (.b4 0x27) ∧
    decodesTo [0b0011_1000] .skp ∧ decodesTo [0b0011_1001, 0x29] (.bnq 0x29) ∧
    decodesTo [0b0011_1010, 0x2A] (.bnz 0x2A) ∧ decodesTo [0b0011_1011, 0x2B] (.bnf 0x2B) ∧
    decodesTo [0b0011_1100, 0x2C] (.bn1 0x2C) ∧ decodesTo [0b0011_1101, 0x2D] (.bn2 0x2D) ∧
    decodesTo [0b0011_1110, 0x2E] (.bn3 0x2E) ∧ decodesTo [0b0011_1111, 0x2F] (.bn4 0x2F) := by
  decide

theorem test_decode_long_branch :
    decodesTo [0b1100_0000, 0x12, 0x34] (.lbr 0x1234) ∧
    decodesTo [0b1100_0001, 0x12, 0x34] (.lbq 0x1234) ∧
    decodesTo [0b1100_0010, 0x12, 0x34] (.lbz 0x1234) ∧
    decodesTo [0b1100_0011, 0x12, 0x34] (.lbdf 0x1234) ∧
    decodesTo [0b1100_1001, 0x12, 0x34] (.lbnq 0x1234) ∧
    decodesTo [0b1100_1010, 0x12, 0x34] (.lbnz 0x1234) ∧
    decodesTo [0b1100_1011, 0x12, 0x34] (.lbnf 0x1234) := by decide

theorem test_decode_skip :
    decodesTo [0b1100_0100] .nop ∧ decodesTo [0b1100_0101] .lsnq ∧
    decodesTo [0b1100_0110] .lsnz ∧ decodesTo [0b1100_0111] .lsnf ∧
    decodesTo [0b1100_1000] .lskp ∧ decodesTo [0b1100_1100] .lsie ∧
    decodesTo [0b1100_1101] .lsq ∧ decodesTo [0b1100_1110] .lsz ∧
    decodesTo [0b1100_1111] .lsdf := by decide

theorem test_decode_control :
    decodesTo [0b0000_0000] .idl ∧ decodesTo [0b1101_0011] (.sep 3) ∧
    decodesTo [0b1110_0010] (.sex 2) ∧ decodesTo [0b0111_1011] .seq ∧
    decodesTo [0b0111_1010] .req ∧ decodesTo [0b0111_1000] .sav ∧
    decodesTo [0b0111_1001] .mark ∧ decodesTo [0b0111_0000] .ret ∧
    decodesTo [0b0111_0001] .dis ∧ decodesTo [0b0110_1000] .unassigned68 := by decide

theorem test_decode_io :
    decodesTo [0b0110_0001] (.out 1) ∧ decodesTo [0b0110_0111] (.out 7) ∧
    decodesTo [0b0110_1001] (.inp 1) ∧ decodesTo [0b0110_1111] (.inp 7) := by decide

theorem test_table_word_of_three_bytes : decodeTableWord 24 0x3412C0 = some (.lbr 0x1234) := by decide
theorem test_table_word_without_operands : decodeTableWord 8 0xC0 = some (.lbr 0x0000) := by decide

/-! ### Memory decode (95_test_vectors.md section 2 and S6) -/

theorem test_variant_a_map :
    readByte (writeByte (resetOf configA) 0x0FFF 0x5A) 0x0FFF = 0x5A ∧
    readByte (resetOf configA) 0x1000 = 0x00 ∧ readByte (resetOf configA) 0x8000 = 0xC4 ∧
    readByte (writeByte (resetOf configA) 0x8000 0x00) 0x8000 = 0xC4 ∧
    readByte (writeByte (resetOf configA) 0x9000 0x77) 0x9000 = 0x00 := by decide

theorem test_variant_b_map :
    place { Config.reference with ramSize := 3000 } 0x1005 = .ram 0x005 ∧
    place { Config.reference with ramSize := 3000 } 0x0BB7 = .ram 2999 ∧
    place { Config.reference with ramSize := 3000 } 0x0BB8 = .unmapped ∧
    place { Config.reference with ramSize := 3000 } 0x1BB8 = .unmapped ∧
    place { Config.reference with ramSize := 1 } 0xFFFF = .ram 0 ∧
    readByte (writeByte State.reset 0xF123 0x77) 0x0123 = 0x77 := by decide

/-- The image has 0x200 bytes here, as in the vector. -/
theorem test_variant_c_map :
    let c := { configC with romCImage := List.replicate 0x200 0xC4 }
    place c 0x0000 = .rom 0 ∧ place c 0x8205 = .ram 0x005 ∧ place c 0x0100 = .rom 0x100 ∧
    place c 0x0400 = .unmapped ∧ place c 0xF3FF = .ram 0x1FF ∧
    readByte (resetOf c) 0x0400 = 0xFF := by decide +kernel

/-! ### Memory reference (section 3) -/

theorem test_ldn :
    observed (writeByte (setReg (running 0x0020 [0x05]) 5 0x0100) 0x0100 0x42)
      (fun t => (t.d, getReg t 5, pc t)) = some (0x42, 0x0100, 0x0021) := by decide
theorem test_lda_wraps :
    observed (writeByte (setReg (running 0x0020 [0x43]) 3 0xFFFF) 0xFFFF 0x9C)
      (fun t => (t.d, getReg t 3)) = some (0x9C, 0x0000) := by decide
theorem test_lda_through_the_program_counter :
    observed (running 0x0010 [0x40, 0x3E]) (fun t => (t.d, pc t)) = some (0x3E, 0x0012) := by decide
theorem test_ldx :
    observed { setReg (running 0x0020 [0xF0, 0x10]) 2 0x0021 with x := 2 }
      (fun t => (t.d, getReg t 2)) = some (0x10, 0x0021) := by decide
theorem test_ldxa :
    observed { setReg (running 0x0020 [0x72, 0x99]) 2 0x0021 with x := 2 }
      (fun t => (t.d, getReg t 2)) = some (0x99, 0x0022) := by decide
theorem test_ldi :
    observed (running 0x0020 [0xF8, 0x7F]) (fun t => (t.d, pc t)) = some (0x7F, 0x0022) := by decide
theorem test_ldi_wraps :
    observed (running 0xFFFF [0xF8, 0x12]) (fun t => (t.d, pc t)) = some (0x12, 0x0001) := by decide
theorem test_str :
    observed { setReg (running 0x0020 [0x54]) 4 0x0123 with d := 0x5A }
      (fun t => (readByte t 0x0123, getReg t 4, t.d)) = some (0x5A, 0x0123, 0x5A) := by decide
/-- The instruction stands in RAM at 0x0002, the store goes to the image. -/
theorem test_str_to_rom :
    observed { setReg (loadBytes (setPc (resetOf configC) 0x0002) 0x0002 [0x54]) 4 0x0001 with d := 0x5A }
      (fun t => (readByte t 0x0001, t.mem)) = some (0x3E, [(0, 0x54)]) := by decide
theorem test_stxd_wraps :
    observed { running 0x0020 [0x73] with x := 2, d := 0x33 }
      (fun t => (readByte t 0x0000, getReg t 2)) = some (0x33, 0xFFFF) := by decide

/-! ### Register operations (section 4) -/

theorem test_inc_carries :
    observed (setReg (running 0x0020 [0x17]) 7 0x12FF) (fun t => getReg t 7) = some 0x1300 := by decide
theorem test_inc_program_counter :
    observed (running 0x0040 [0x10]) pc = some 0x0042 := by decide
theorem test_dec_wraps :
    observed (running 0x0020 [0x27]) (fun t => getReg t 7) = some 0xFFFF := by decide
theorem test_dec_program_counter :
    observed (running 0x0040 [0x20]) pc = some 0x0040 := by decide
theorem test_irx_wraps :
    observed { setReg (running 0x0020 [0x60]) 2 0xFFFF with x := 2 }
      (fun t => (getReg t 2, t.hostLog)) = some (0x0000, []) := by decide
theorem test_glo :
    observed (setReg (running 0x0020 [0x8A]) 10 0xBEEF) (fun t => t.d) = some 0xEF := by decide
theorem test_ghi :
    observed (setReg (running 0x0020 [0x9A]) 10 0xBEEF) (fun t => t.d) = some 0xBE := by decide
theorem test_ghi_program_counter :
    observed (running 0x01FF [0x90]) (fun t => t.d) = some 0x02 := by decide
theorem test_plo :
    observed { setReg (running 0x0020 [0xA3]) 3 0x1234 with d := 0x56 }
      (fun t => getReg t 3) = some 0x1256 := by decide
theorem test_plo_program_counter :
    observed { running 0x0105 [0xA0] with d := 0x40 } pc = some 0x0140 := by decide
theorem test_phi :
    observed { setReg (running 0x0020 [0xB3]) 3 0x1256 with d := 0x80 }
      (fun t => getReg t 3) = some 0x8056 := by decide

/-! ### Logic, shifts and arithmetic (sections 5 and 6)

The operand of a memory form is the byte after the opcode, R[X] being R[2]. -/

/-- The state about to run a memory form with this D, this M(R[X]) and this DF. -/
def onMemory (op d m : Byte) (df : Bool) : State :=
  { setReg (running 0x0020 [op, m]) 2 0x0021 with x := 2, d := d, df := df }

theorem test_or :
    observed (onMemory 0xF1 0x0F 0xF0 true) (fun t => (t.d, t.df)) = some (0xFF, true) := by decide
theorem test_ori :
    observed (onMemory 0xF9 0x5A 0x00 true) (fun t => (t.d, t.df, pc t)) =
      some (0x5A, true, 0x0022) := by decide
theorem test_xor :
    observed (onMemory 0xF3 0xFF 0x0F true) (fun t => (t.d, t.df)) = some (0xF0, true) := by decide
theorem test_xri :
    observed (onMemory 0xFB 0x5A 0xFF false) (fun t => (t.d, t.df, pc t)) =
      some (0xA5, false, 0x0022) := by decide
theorem test_and :
    observed (onMemory 0xF2 0xF0 0x3C true) (fun t => (t.d, t.df)) = some (0x30, true) := by decide
theorem test_ani :
    observed (onMemory 0xFA 0x77 0x00 true) (fun t => (t.d, t.df, pc t)) =
      some (0x00, true, 0x0022) := by decide
theorem test_shr :
    observed (onMemory 0xF6 0x81 0x00 false) (fun t => (t.d, t.df)) = some (0x40, true) := by decide
theorem test_shr_ignores_df :
    observed (onMemory 0xF6 0x00 0x00 true) (fun t => (t.d, t.df)) = some (0x00, false) := by decide
theorem test_shrc :
    observed (onMemory 0x76 0x00 0x00 true) (fun t => (t.d, t.df)) = some (0x80, false) := by decide
theorem test_shrc_out :
    observed (onMemory 0x76 0x81 0x00 false) (fun t => (t.d, t.df)) = some (0x40, true) := by decide
theorem test_shl :
    observed (onMemory 0xFE 0x81 0x00 true) (fun t => (t.d, t.df)) = some (0x02, true) := by decide
theorem test_shlc :
    observed (onMemory 0x7E 0x81 0x00 true) (fun t => (t.d, t.df)) = some (0x03, true) := by decide
theorem test_shlc_out :
    observed (onMemory 0x7E 0x7F 0x00 false) (fun t => (t.d, t.df)) = some (0xFE, false) := by decide
theorem test_add :
    observed (onMemory 0xF4 0x3A 0xC9 false) (fun t => (t.d, t.df)) = some (0x03, true) := by decide
theorem test_add_ignores_df :
    observed (onMemory 0xF4 0x7F 0x01 true) (fun t => (t.d, t.df)) = some (0x80, false) := by decide
theorem test_adi :
    observed (onMemory 0xFC 0x80 0x80 true) (fun t => (t.d, t.df, pc t)) =
      some (0x00, true, 0x0022) := by decide
theorem test_adc :
    observed (onMemory 0x74 0xFF 0xFF true) (fun t => (t.d, t.df)) = some (0xFF, true) := by decide
theorem test_adc_no_carry :
    observed (onMemory 0x74 0x10 0x20 true) (fun t => (t.d, t.df)) = some (0x31, false) := by decide
theorem test_adci :
    observed (onMemory 0x7C 0xFF 0x00 true) (fun t => (t.d, t.df, pc t)) =
      some (0x00, true, 0x0022) := by decide
theorem test_sd :
    observed (onMemory 0xF5 0x10 0x30 false) (fun t => (t.d, t.df)) = some (0x20, true) := by decide
theorem test_sd_borrow :
    observed (onMemory 0xF5 0x01 0x00 true) (fun t => (t.d, t.df)) = some (0xFF, false) := by decide
theorem test_sdi :
    observed (onMemory 0xFD 0x01 0x00 true) (fun t => (t.d, t.df, pc t)) =
      some (0xFF, false, 0x0022) := by decide
theorem test_sdb :
    observed (onMemory 0x75 0x10 0x30 false) (fun t => (t.d, t.df)) = some (0x1F, true) := by decide
theorem test_sdb_borrow :
    observed (onMemory 0x75 0x30 0x30 false) (fun t => (t.d, t.df)) = some (0xFF, false) := by decide
theorem test_sdbi :
    observed (onMemory 0x7D 0x05 0x05 true) (fun t => (t.d, t.df, pc t)) =
      some (0x00, true, 0x0022) := by decide
theorem test_sm :
    observed (onMemory 0xF7 0x30 0x10 false) (fun t => (t.d, t.df)) = some (0x20, true) := by decide
theorem test_sm_borrow :
    observed (onMemory 0xF7 0x00 0x01 true) (fun t => (t.d, t.df)) = some (0xFF, false) := by decide
theorem test_smi :
    observed (onMemory 0xFF 0x05 0x06 true) (fun t => (t.d, t.df, pc t)) =
      some (0xFF, false, 0x0022) := by decide
/-- Variant C fetches opcode and immediate 0xFF from the unmapped part of its window. -/
theorem test_smi_from_unmapped :
    observed { setPc (resetOf configC) 0x0400 with d := 0x05 } (fun t => (t.d, t.df, pc t)) =
      some (0x06, false, 0x0402) := by decide
theorem test_smb :
    observed (onMemory 0x77 0x30 0x10 false) (fun t => (t.d, t.df)) = some (0x1F, true) := by decide
theorem test_smb_borrow :
    observed (onMemory 0x77 0x00 0x00 false) (fun t => (t.d, t.df)) = some (0xFF, false) := by decide
theorem test_smbi :
    observed (onMemory 0x7F 0x05 0x00 false) (fun t => (t.d, t.df, pc t)) =
      some (0x04, true, 0x0022) := by decide

/-! ### Branches and skips (section 7) -/

theorem test_br : observed (running 0x0104 [0x30, 0x20]) pc = some 0x0120 := by decide
theorem test_br_wraps : observed (running 0xFFFF [0x30, 0x10]) pc = some 0x0010 := by decide
theorem test_bq : observed { running 0x0300 [0x31, 0x80] with q := true } pc = some 0x0380 := by decide
theorem test_bz_taken : observed (running 0x0100 [0x32, 0x40]) pc = some 0x0140 := by decide
theorem test_bz_not_taken :
    observed { running 0x0100 [0x32, 0x40] with d := 1 } pc = some 0x0102 := by decide
/-- The page is that of the operand byte. -/
theorem test_bdf_in_the_next_page :
    observed { running 0x01FF [0x33, 0x10] with df := true } pc = some 0x0210 := by decide
theorem test_bdf_not_taken : observed (running 0x01FF [0x33, 0x10]) pc = some 0x0201 := by decide
theorem test_b1 : observed (running 0x0300 [0x34, 0x55]) pc = some 0x0355 := by decide
theorem test_b2 : observed (running 0x0300 [0x35, 0x55]) pc = some 0x0302 := by decide
theorem test_b3_no_key : observed (running 0x0300 [0x36, 0x55]) pc = some 0x0302 := by decide
/-- Variant C: the host is asked for the key in the latch. -/
theorem test_b3_live :
    observed { loadBytes (setPc (resetOf configC) 0x0100) 0x0100 [0x36, 0x55] with
        keyLatch := 7
        hostAnswers := [true] }
      (fun t => (pc t, t.hostLog, t.hostAnswers)) =
      some (0x0155, [⟨.readKeyboard, 7⟩], []) := by decide
theorem test_b4 :
    observed { running 0x0300 [0x37, 0x55] with hostAnswers := [false] }
      (fun t => (pc t, t.hostLog)) = some (0x0355, [⟨.readSecondaryKey, 0⟩]) := by decide
theorem test_skp : observed (running 0x0500 [0x38]) pc = some 0x0502 := by decide
theorem test_bnq : observed { running 0x0300 [0x39, 0x80] with q := true } pc = some 0x0302 := by decide
theorem test_bnz : observed { running 0x0100 [0x3A, 0x40] with d := 1 } pc = some 0x0140 := by decide
theorem test_bnf : observed { running 0x0100 [0x3B, 0x40] with df := true } pc = some 0x0102 := by decide
theorem test_bn1 : observed (running 0x0300 [0x3C, 0x55]) pc = some 0x0302 := by decide
theorem test_bn2 : observed (running 0x0300 [0x3D, 0x55]) pc = some 0x0355 := by decide
theorem test_bn3_key :
    observed { running 0x0300 [0x3E, 0x55] with curKey := some 5 } pc = some 0x0302 := by decide
/-- Variant A at the patch: taken or not by EF3_PATCH_VALUE, and no host call. -/
theorem test_bn3_patched :
    observed { loadBytes (setPc (resetOf configA) 0x0300) 0x0300 [0x3E, 0x55] with keyLatch := 5 }
      (fun t => (pc t, t.hostLog)) = some (0x0302, []) := by decide
theorem test_bn4 :
    observed { running 0x0300 [0x3F, 0x55] with hostAnswers := [true] } pc = some 0x0355 := by decide
theorem test_lbr : observed (running 0x0000 [0xC0, 0x12, 0x34]) pc = some 0x1234 := by decide
theorem test_lbr_wraps : observed (running 0xFFFE [0xC0, 0xAB, 0xCD]) pc = some 0xABCD := by decide
theorem test_lbq : observed (running 0x0100 [0xC1, 0x12, 0x34]) pc = some 0x0103 := by decide
theorem test_lbz_taken : observed (running 0x0100 [0xC2, 0x12, 0x34]) pc = some 0x1234 := by decide
theorem test_lbz_not_taken :
    observed { running 0x0100 [0xC2, 0x12, 0x34] with d := 1 } pc = some 0x0103 := by decide
theorem test_lbdf :
    observed { running 0x0100 [0xC3, 0x12, 0x34] with df := true } pc = some 0x1234 := by decide
theorem test_lbnq : observed (running 0x0100 [0xC9, 0x12, 0x34]) pc = some 0x1234 := by decide
theorem test_lbnz : observed (running 0x0100 [0xCA, 0x12, 0x34]) pc = some 0x0103 := by decide
theorem test_lbnf_wraps :
    observed { running 0xFFFE [0xCB, 0x12, 0x34] with df := true } pc = some 0x0001 := by decide
theorem test_nop : observed (running 0x0100 [0xC4]) pc = some 0x0101 := by decide
theorem test_lsnq : observed { running 0x0100 [0xC5] with q := true } pc = some 0x0101 := by decide
theorem test_lsnz_taken : observed { running 0x0100 [0xC6] with d := 1 } pc = some 0x0103 := by decide
theorem test_lsnz_not_taken : observed (running 0x0100 [0xC6]) pc = some 0x0101 := by decide
theorem test_lsnf : observed (running 0x0100 [0xC7]) pc = some 0x0103 := by decide
theorem test_lskp_wraps : observed (running 0xFFFF [0xC8]) pc = some 0x0002 := by decide
theorem test_lsie : observed { running 0x0100 [0xCC] with ie := false } pc = some 0x0101 := by decide
theorem test_lsq : observed { running 0x0100 [0xCD] with q := true } pc = some 0x0103 := by decide
theorem test_lsz : observed (running 0x0100 [0xCE]) pc = some 0x0103 := by decide
theorem test_lsdf : observed { running 0x0100 [0xCF] with df := true } pc = some 0x0103 := by decide

/-! ### Control (section 8) -/

theorem test_idl :
    observed (running 0x0010 [0x00]) (fun t => (pc t, t.budget)) = some (0x0010, 998) := by decide
theorem test_sep :
    observed (setReg (running 0x0100 [0xD3]) 3 0x0200) (fun t => (t.p, getReg t 0, pc t)) =
      some (3, 0x0101, 0x0200) := by decide
theorem test_sex : observed (running 0x0100 [0xE2]) (fun t => (t.x, pc t)) = some (2, 0x0101) := by decide
theorem test_seq :
    observed (running 0x0100 [0x7B]) (fun t => (t.q, t.hostLog)) =
      some (true, [⟨.updateOutputFlag, 1⟩]) := by decide
theorem test_req :
    observed (running 0x0100 [0x7A]) (fun t => (t.q, t.hostLog)) =
      some (false, [⟨.updateOutputFlag, 0⟩]) := by decide
theorem test_sav :
    observed { setReg (running 0x0020 [0x78]) 2 0x01F0 with x := 2, t := 0x23 }
      (fun t => (readByte t 0x01F0, getReg t 2)) = some (0x23, 0x01F0) := by decide
theorem test_mark :
    observed { setReg (setReg (running 0x0020 [0x79]) 3 0x0020) 2 0x01FF with x := 5, p := 3 }
      (fun t => (t.t, readByte t 0x01FF, t.x, t.p, getReg t 2)) =
      some (0x53, 0x53, 3, 3, 0x01FE) := by decide
theorem test_mark_wraps :
    observed { setReg (running 0x0020 [0x79]) 3 0x0020 with x := 5, p := 3 }
      (fun t => (readByte t 0x0000, getReg t 2)) = some (0x53, 0xFFFF) := by decide
theorem test_ret :
    observed { writeByte (setReg (running 0x0020 [0x70]) 2 0x01FE) 0x01FE 0x53 with
        x := 2
        ie := false }
      (fun t => (getReg t 2, t.x, t.p, t.ie)) = some (0x01FF, 5, 3, true) := by decide
theorem test_dis :
    observed { writeByte (setReg (running 0x0020 [0x71]) 2 0x01FE) 0x01FE 0x21 with x := 2 }
      (fun t => (getReg t 2, t.x, t.p, t.ie)) = some (0x01FF, 2, 1, false) := by decide
theorem test_dis_through_the_program_counter :
    observed (running 0x0100 [0x71, 0x23]) (fun t => (getReg t 0, t.x, t.p, t.ie)) =
      some (0x0102, 2, 3, false) := by decide
theorem test_unassigned68 :
    observed (running 0x0100 [0x68])
      (fun t => decide (t = { setPc (running 0x0100 [0x68]) 0x0101 with budget := 998 })) =
      some true := by decide

/-! ### Input and output (section 9) -/

theorem test_out1 :
    observed { setReg (running 0x0020 [0x61]) 2 0x0100 with x := 2, screenEnabled := true }
      (fun t => (t.screenEnabled, getReg t 2)) = some (false, 0x0101) := by decide
theorem test_out2_through_the_program_counter :
    observed (loadBytes (setPc (resetOf configA) 0x0200) 0x0200 [0x62, 0x0A])
      (fun t => (t.keyLatch, pc t)) = some (0x0A, 0x0202) := by decide
theorem test_out2_variant_b :
    observed (running 0x0200 [0x62, 0x3C]) (fun t => (t.keyLatch, pc t)) = some (0, 0x0202) := by decide
theorem test_out4 :
    observed (running 0x0200 [0x64, 0x07]) (fun t => (t.hostLog, pc t)) =
      some ([⟨.updateDisplay, 0x07⟩], 0x0202) := by decide
theorem test_out4_variant_a :
    observed (loadBytes (setPc (resetOf configA) 0x0200) 0x0200 [0x64, 0x07])
      (fun t => (t.hostLog, pc t)) = some ([], 0x0202) := by decide
theorem test_inp1 :
    observed { setReg (running 0x0020 [0x69, 0x77]) 2 0x0021 with x := 2, d := 0x55 }
      (fun t => (t.screenEnabled, readByte t 0x0021, t.d, getReg t 2)) =
      some (true, 0x00, 0x00, 0x0021) := by decide
theorem test_inp4 :
    observed { setReg (running 0x0020 [0x6C]) 2 0x0100 with x := 2, keyLatch := 0x57 }
      (fun t => (t.d, readByte t 0x0100)) = some (0x57, 0x57) := by decide

/-! ### Frame, interrupt and keyboard (section 10, S4) -/

/-- The bookkeeping of an advance whose instruction step left R[3] = 0x0010, P = 3 and X = 7. -/
def endOfBulk (screen enabled : Bool) (byte : Byte) : State :=
  { loadBytes (setReg State.reset 3 0x0010) 0x0010 [byte] with
    p := 3
    x := 7
    budget := 1
    screenEnabled := screen
    ie := enabled }

theorem test_idl_wake :
    frameTick (endOfBulk true false 0x00) =
      { setReg (endOfBulk true false 0x00) 3 0x0011 with
        frameState := .interruptPreliminary
        budget := 29 } := by decide
theorem test_idl_wake_and_interrupt :
    frameTick (endOfBulk true true 0x00) =
      { setReg (endOfBulk true true 0x00) 3 0x0011 with
        frameState := .interruptPreliminary
        budget := 29
        t := 0x73
        p := 1
        x := 2
        ie := false } := by decide
theorem test_interrupt_without_idl :
    frameTick (endOfBulk true true 0x30) =
      { endOfBulk true true 0x30 with
        frameState := .interruptPreliminary
        budget := 29
        t := 0x73
        p := 1
        x := 2
        ie := false } := by decide
theorem test_idl_with_the_screen_off :
    frameTick (endOfBulk false true 0x00) =
      { endOfBulk false true 0x00 with frameState := .interruptPreliminary, budget := 29 } := by decide

/-- The end of an InterruptPreliminary phase, with sixteen answers fixed for the key sample. -/
def endOfIP (c : Config) (r0 : Word) (latch : Byte) (key : Option Key) (answers : List Bool) : State :=
  { setReg (resetOf c) 0 r0 with
    frameState := .interruptPreliminary
    budget := 1
    keyLatch := latch
    curKey := key
    hostAnswers := answers }

/-- The sixteen answers of a host on which exactly these keys are pressed. -/
def pressed (keys : List Key) : List Bool := allKeys.map (fun k => keys.contains k)

theorem test_capture_variant_a :
    (screenPointer (frameTick (endOfIP configA 0x1234 0 none (pressed []))),
      screenQuery (frameTick (endOfIP configA 0x1234 0 none (pressed [])))) =
      (0x1234, (none, 0x34)) := by decide
theorem test_capture_variant_c :
    (fun t => (t.screenBase, t.scroll, screenPointer t))
      (frameTick (endOfIP configC 0xFF50 0 none (pressed []))) = (0x0100, 0x50, 0x0150) := by decide
theorem test_key_priority :
    (frameTick (endOfIP configA 0 0 none (pressed [3, 9]))).curKey = some 3 := by decide
theorem test_shift_accumulator :
    (fun t => (t.keyLatch, t.curKey))
      (frameTick (endOfIP Config.reference 0 0x57 (some 7) (pressed [10]))) =
      (0x7A, some 10) := by decide
theorem test_held_key_shifts_nothing :
    (fun t => (t.keyLatch, t.curKey))
      (frameTick (endOfIP Config.reference 0 0x05 (some 5) (pressed [5]))) =
      (0x05, some 5) := by decide
theorem test_release_keeps_the_select_latch :
    (fun t => (t.keyLatch, t.curKey)) (frameTick (endOfIP configA 0 0x0C (some 5) (pressed []))) =
      (0x0C, none) := by decide

/-! ### Reset (S1) -/

/-- Draws that no reset value of the table equals. -/
def someDraws : ResetDraws where
  d := 0xA5
  t := 0x5A
  df := true
  regs := Vector.replicate 16 0xBEEF
  screenBase := 0x0700
  scroll := 0x33

theorem test_reset_variant_b :
    observedReset (firstReset Config.reference [] someDraws (some [0xF8, 0x00]))
      (fun t => ([getReg t 0, getReg t 2], t.p, t.x, t.d, ramRead t.mem 0)) =
      some ([0x0000, 0xBEEF], 0, 0, 0xA5, 0xF8) := by decide
theorem test_reset_variant_a :
    observedReset (firstReset configA [] someDraws (some [0xF8, 0x00]))
      (fun t => ([getReg t 0, getReg t 2], t.p, t.x, t.d, t.t)) =
      some ([0x0000, 0x0FFF], 3, 4, 0x11, 0x5A) := by decide

/-! ### Witnesses: a state and operands that meet the hypotheses of each statement, clause by clause -/

/-- The reset state with a program that stores D at R[2] = 0x0FFF, the last RAM byte. -/
def storing : State := { setReg (running 0x0000 [0x52]) 2 0x0FFF with d := 0x5A }

theorem witness_DecodeInvertsEncode :
    (Instr.ldn 1).WellFormed = true ∧ (Instr.ldn 15).WellFormed = true ∧
    (Instr.out 1).WellFormed = true ∧ (Instr.inp 7).WellFormed = true := by decide

theorem witness_EncodeInvertsDecode :
    decode [0xC0, 0x12, 0x34, 0x99] = .ok (.lbr 0x1234, [0x99]) := rfl

theorem witness_OpcodeByteDecidesTheLength :
    opcodeLength 0xC0 ≤ 1 + ([0x12, 0x34] : List Byte).length ∧
    1 + ([0x12] : List Byte).length < opcodeLength 0xC0 := by decide

theorem witness_StepRunsTheDecodedInstruction :
    configWf storing.cfg ∧
    decode [readByte storing (pc storing), readByte storing (pc storing + 1),
      readByte storing (pc storing + 2)] = .ok (.str 2, [0x00, 0x00]) :=
  ⟨by decide, rfl⟩

theorem witness_EveryAdvanceEndsInANextState :
    configWf configA ∧ configWf configC ∧ configWf { Config.reference with ramSize := 1 } ∧
    configWf { Config.reference with ramSize := 65536 } ∧
    configWf { configC with romCImage := List.replicate 3584 0x00 } := by decide +kernel

/-- Each way to be ill formed, at its boundary. -/
theorem witness_IllFormedInstancesAreRefused :
    step (resetOf { Config.reference with ramSize := 0 }) = .refused .illFormedInstance ∧
    step (resetOf { Config.reference with ramSize := 65537 }) = .refused .illFormedInstance ∧
    step (resetOf { configA with romABase := 65535 }) = .refused .illFormedInstance ∧
    step (resetOf { configA with romABase := 0x0FFF }) = .refused .illFormedInstance ∧
    step (resetOf { configC with ramSize := 511 }) = .refused .illFormedInstance ∧
    step (resetOf { configC with romCImage := List.replicate 3585 0x00 }) =
      .refused .illFormedInstance := by
  refine ⟨if_neg ?_, if_neg ?_, if_neg ?_, if_neg ?_, if_neg ?_, if_neg ?_⟩ <;> decide +kernel

theorem witness_EveryAdvanceKeepsTheInvariant :
    Inv storing ∧ ∃ t, step storing = .next t := by
  refine ⟨⟨by decide, by decide, ?_, ?_, ?_, ?_⟩, _, rfl⟩
  · unfold RamInRange
    decide
  · intro _
    decide
  · exact ⟨by decide, show (1000 : Int) ≤ ((1000 : Nat) : Int) by decide⟩
  · intro e he
    exact absurd he (List.not_mem_nil)

theorem witness_EveryResetMeetsTheInvariant :
    (∀ e ∈ (resetOf configA).hostLog, EventLegal e) ∧
    (∃ t, resetOp someDraws (some [0xF8]) (resetOf configA) = .next t) ∧
    Inv (resetOf configA) ∧ ∃ t, resetOp someDraws none (resetOf configA) = .next t := by
  refine ⟨fun e he => absurd he List.not_mem_nil, ⟨_, rfl⟩,
    ⟨by decide, by decide, fun c hc => absurd hc List.not_mem_nil, fun _ => by decide, ?_,
      fun e he => absurd he List.not_mem_nil⟩, _, rfl⟩
  exact ⟨by decide, show (1000 : Int) ≤ ((1000 : Nat) : Int) by decide⟩

/-- The last RAM byte, the two ends of the image, and the unmapped addresses beside them. -/
theorem witness_VariantAReadsRamImageOrZero :
    configA.variant = .a ∧ (0x0FFF : Word).toNat < configA.ramSize ∧
    configA.ramSize ≤ (0x8000 : Word).toNat ∧ 1 < configA.romAImage.length ∧
    (0x8000 : Word).toNat = configA.romABase + 0 ∧ (0x8001 : Word).toNat = configA.romABase + 1 ∧
    configA.ramSize ≤ (0x1000 : Word).toNat ∧ (0x7FFF : Word).toNat < configA.romABase ∧
    configA.romABase + configA.romAImage.length ≤ (0x8002 : Word).toNat := by decide

/-- RAM_SIZE 3000 has k = 12; the last RAM byte and the first unmapped one. -/
theorem witness_VariantBReadsRamUnderItsMask :
    Config.reference.variant = .b ∧ 3000 ≤ 65536 ∧ (∀ j : Nat, 3000 ≤ 2 ^ j ↔ 12 ≤ j) ∧
    (0x1BB7 : Word).toNat % 2 ^ 12 < 3000 ∧ 3000 ≤ (0x1BB8 : Word).toNat % 2 ^ 12 := by
  refine ⟨rfl, by decide, fun j => ⟨fun h => ?_, fun h => ?_⟩, by decide, by decide⟩
  · by_contra hj
    have := Nat.pow_le_pow_right (show 0 < 2 by decide) (show j ≤ 11 by omega)
    omega
  · have := Nat.pow_le_pow_right (show 0 < 2 by decide) h
    omega

/-- The last image byte, the first and last RAM bytes, the first unmapped address. -/
theorem witness_VariantCReadsItsWindow :
    configC.variant = .c ∧ (0xF001 : Word).toNat % 4096 < configC.romCImage.length ∧
    (0x0002 : Word).toNat % 4096 = configC.romCImage.length + 0 ∧
    (0x8201 : Word).toNat % 4096 = configC.romCImage.length + 511 ∧
    configC.romCImage.length + 512 ≤ (0x0202 : Word).toNat % 4096 := by decide

theorem witness_UnmappedReadsGiveTheSentinel :
    place configA 0x1000 = .unmapped ∧
    place { Config.reference with ramSize := 3000 } 0x0BB8 = .unmapped ∧
    place configC 0x0202 = .unmapped := by decide

/-- A RAM byte, an alias of it, another RAM byte, an image byte and an unmapped address. -/
theorem witness_RamReadsBackWhatWasWritten :
    place configC 0x0002 = .ram 0 ∧ place configC 0x1002 = .ram 0 ∧
    place configC 0x0003 ≠ .ram 0 ∧ (∀ k, place configC 0x0001 ≠ .ram k) ∧
    ∀ k, place configC 0x0202 ≠ .ram k := by
  refine ⟨by decide, by decide, by decide, fun k => ?_, fun k => ?_⟩
  · rw [show place configC 0x0001 = .rom 1 by decide]
    exact Place.noConfusion
  · rw [show place configC 0x0202 = .unmapped by decide]
    exact Place.noConfusion

theorem witness_ReadOnlyImagesAreConstant :
    place configA 0x8001 = .rom 1 ∧ (∃ t, step (resetOf configA) = .next t) ∧
    (∃ t, resetOp someDraws none (resetOf configA) = .next t) ∧
    ∃ t, resetOp someDraws (some [0xF8]) (resetOf configA) = .next t :=
  ⟨by decide, ⟨_, rfl⟩, ⟨_, rfl⟩, _, rfl⟩

/-- An advance that stores and one that does not. -/
theorem witness_AnAdvanceStoresOnlyItsInstructionsByte :
    (∃ t, step storing = .next t) ∧
    storeAddress (fetchInstr storing) (afterFetch storing) = some 0x0FFF ∧
    (∃ t, step State.reset = .next t) ∧
    storeAddress (fetchInstr State.reset) (afterFetch State.reset) = none :=
  ⟨⟨_, rfl⟩, by decide, ⟨_, rfl⟩, by decide⟩

/-- Two bytes loaded over the end of the address space, and an address they do not reach. -/
theorem witness_LoadedBytesReadBack :
    place Config.reference (0xFFFF + BitVec.ofNat 16 0) = .ram 0x0FFF ∧
    place Config.reference (0xFFFF + BitVec.ofNat 16 1) = .ram 0 ∧
    (∀ l, 0 < l → l < 2 → place Config.reference (0xFFFF + BitVec.ofNat 16 l) ≠ .ram 0x0FFF) ∧
    ∀ j < 2, place Config.reference (0xFFFF + BitVec.ofNat 16 j) ≠ place Config.reference 0x0001 := by
  refine ⟨by decide, by decide, fun l h0 h2 => ?_, by decide⟩
  obtain rfl : l = 1 := by omega
  decide

theorem witness_LoadsPutOneByteInD : State.reset.x = State.reset.p := rfl

theorem witness_FlagThreeCachedOrPatched :
    Config.reference.variant = .b ∧ configA.variant = .a ∧
    pc (setPc { resetOf configA with keyLatch := 5 } 0x0301) = configA.ef3PatchPc ∧
    ({ resetOf configA with keyLatch := 5 } : State).keyLatch = configA.ef3PatchLatch := by decide

/-- Variant C; Variant A with another program counter; Variant A at the patch with another latch. The
answer may be fixed or free. -/
theorem witness_FlagThreeLiveAsksTheHostOnce :
    configC.variant = .c ∧ configA.variant = .a ∧
    pc (resetOf configA) ≠ configA.ef3PatchPc ∧ (resetOf configA).keyLatch ≠ configA.ef3PatchLatch ∧
    (resetOf configC).hostAnswers = [] ∧
    ({ resetOf configC with hostAnswers := [true] } : State).hostAnswers = true :: [] := by decide

theorem witness_FlagFourIsTheInverseOfTheSecondaryKey :
    State.reset.hostAnswers = [] ∧
    ({ State.reset with hostAnswers := [true] } : State).hostAnswers = true :: [] := by decide

theorem witness_ReturnUndoesTheInterrupt :
    storing.ie = true ∧ place storing.cfg (getReg storing 2) = .ram 0x0FFF := by decide

theorem witness_OutputActsOnItsPort : (1 : Port) ≠ 0 ∧ (2 : Port) ≠ 0 ∧ (4 : Port) ≠ 0 ∧ (7 : Port) ≠ 0 := by
  decide

theorem witness_InputStoresItsValue : (1 : Port) ≠ 0 ∧ (4 : Port) ≠ 0 ∧ (7 : Port) ≠ 0 := by decide

/-- An instruction that changes each field. -/
theorem witness_OnlyTheNamedInstructionsWriteControlState :
    (∃ t, exec (.sep 3) State.reset = .next t ∧ t.p ≠ State.reset.p) ∧
    (∃ t, exec (.sex 3) State.reset = .next t ∧ t.x ≠ State.reset.x) ∧
    (∃ t, exec .mark { State.reset with x := 3 } = .next t ∧ t.t ≠ State.reset.t) ∧
    (∃ t, exec .dis State.reset = .next t ∧ t.ie ≠ State.reset.ie) ∧
    (∃ t, exec .seq State.reset = .next t ∧ t.q ≠ State.reset.q) ∧
    (∃ t, exec (.smi 0) State.reset = .next t ∧ t.df ≠ State.reset.df) ∧
    (∃ t, exec (.inp 1) State.reset = .next t ∧ t.screenEnabled ≠ State.reset.screenEnabled) ∧
    ∃ t, exec (.out 2) (loadBytes (resetOf configA) 0x0000 [0x0A]) = .next t ∧
      t.keyLatch ≠ (resetOf configA).keyLatch := by
  refine ⟨⟨_, rfl, ?_⟩, ⟨_, rfl, ?_⟩, ⟨_, rfl, ?_⟩, ⟨_, rfl, ?_⟩, ⟨_, rfl, ?_⟩, ⟨_, rfl, ?_⟩,
    ⟨_, rfl, ?_⟩, ⟨_, rfl, ?_⟩⟩ <;> decide

/-- MARK changes T, an interrupt delivery changes T, SEQ changes Q. -/
theorem witness_AnAdvanceWritesTOnlyByMarkOrInterrupt :
    (∃ t, step { running 0x0000 [0x79] with x := 3 } = .next t ∧ t.t ≠ State.reset.t) ∧
    (∃ t, step (endOfBulk true true 0x30) = .next t ∧ t.t ≠ (endOfBulk true true 0x30).t) ∧
    ∃ t, step (running 0x0000 [0x7B]) = .next t ∧ t.q ≠ State.reset.q := by
  refine ⟨⟨_, rfl, ?_⟩, ⟨_, rfl, ?_⟩, ⟨_, rfl, ?_⟩⟩ <;> decide

/-- An advance that issues commands. -/
theorem witness_SetKeypadGroupIsNeverIssued :
    (∃ t, step (endOfIP configA 0x0000 0 none (pressed [])) = .next t ∧ t.hostLog ≠ []) ∧
    (∃ t, resetOp someDraws (some [0xF8]) (resetOf configA) = .next t) ∧
    ∃ t, resetOp someDraws none (resetOf configA) = .next t :=
  ⟨⟨_, rfl, by decide⟩, ⟨_, rfl⟩, _, rfl⟩

/-- The budget at the two sides of the transition, in both phases. -/
theorem witness_AdvanceCostsTwoUnitsAndReloads :
    2 ≤ ({ State.reset with budget := 2 } : State).budget ∧
    (∃ t, step { State.reset with budget := 2 } = .next t) ∧
    0 ≤ ({ State.reset with budget := 2 } : State).budget - 2 ∧
    (∃ t, step { State.reset with budget := 1 } = .next t) ∧
    ({ State.reset with budget := 1 } : State).budget - 2 < 0 ∧ State.reset.frameState = .bulk ∧
    (∃ t, step (endOfIP configA 0x0000 0 none (pressed [])) = .next t) ∧
    (endOfIP configA 0x0000 0 none (pressed [])).budget - 2 < 0 ∧
    (endOfIP configA 0x0000 0 none (pressed [])).frameState = .interruptPreliminary :=
  ⟨by decide, ⟨_, rfl⟩, by decide, ⟨_, rfl⟩, by decide, rfl, ⟨_, rfl⟩, by decide, rfl⟩

/-- A whole Bulk phase, and the shortest one. -/
theorem witness_APhaseLastsHalfItsBudgetPlusOne :
    configWf State.reset.cfg ∧ 0 ≤ State.reset.budget ∧ 2 * ((500 : Nat) : Int) ≤ State.reset.budget ∧
    State.reset.frameState = .bulk ∧ State.reset.budget = State.reset.cfg.bulkBudget ∧
    (resetOf { Config.reference with bulkBudget := 0 }).budget = 0 := by decide

theorem witness_BulkEndsWithWakeAndInterrupt :
    (endOfBulk true true 0x00).frameState = .bulk ∧ (endOfBulk true true 0x00).budget < 2 ∧
    (endOfBulk true true 0x00).screenEnabled = true ∧ (endOfBulk true true 0x00).ie = true ∧
    (endOfBulk true false 0x30).ie = false ∧ (endOfBulk false true 0x00).screenEnabled = false := by
  decide

theorem witness_InterruptOnlyAtTheEndOfBulk :
    (frameTick (endOfBulk true true 0x00)).t ≠ (endOfBulk true true 0x00).t := by decide

theorem witness_TheScreenIsCapturedFromRegisterZero :
    (endOfIP configC 0xFF50 0 none (pressed [])).frameState = .interruptPreliminary ∧
    (endOfIP configC 0xFF50 0 none (pressed [])).budget < 2 := by decide

theorem witness_TheTransitionSyncsThenPollsSixteenKeys :
    (endOfIP Config.reference 0x0000 0 none []).frameState = .interruptPreliminary ∧
    (endOfIP Config.reference 0x0000 0 none []).budget < 2 := by decide

/-- No key, the lowest and the highest key. -/
theorem witness_TheLowestPressedKeyIsSampled :
    (pressed []).length = 16 ∧ (pressed [15]).length = 16 ∧
    (endOfIP configA 0x0000 0 none (pressed [] ++ [true])).hostAnswers = pressed [] ++ [true] ∧
    (∀ j < 16, (pressed [])[j]? = some false) ∧
    (pressed [0, 15])[(0 : Key).toNat]? = some true ∧
    (pressed [15])[(15 : Key).toNat]? = some true ∧
    ∀ j < (15 : Key).toNat, (pressed [15])[j]? = some false := by decide

/-- A select variant; a held key; a release; a new key in the shift variant. -/
theorem witness_AKeyEdgeUpdatesTheLatch :
    (endOfIP Config.reference 0x0000 0x05 none (pressed [7])).frameState = .interruptPreliminary ∧
    (endOfIP Config.reference 0x0000 0x05 none (pressed [7])).budget < 2 ∧
    (resetOf configA).cfg.variant ≠ .b ∧
    some 5 = (endOfIP Config.reference 0x0000 0x05 (some 5) []).curKey ∧
    State.reset.cfg.variant = .b ∧ State.reset.curKey ≠ some 5 := by decide

theorem witness_IdleWithTheScreenOffIsNeverLeft :
    configWf State.reset.cfg ∧ State.reset.screenEnabled = false ∧
    readByte State.reset (pc State.reset) = 0x00 := by decide

theorem witness_ResetSetsTheListedValues :
    configWf configA ∧ configWf { configA with ramSize := ([0xF8, 0x00] : List Byte).length } ∧ configA.variant = .a ∧
    configWf { Config.reference with ramSize := ([0xF8] : List Byte).length } ∧
    Config.reference.variant ≠ .a ∧ (1 : RegNum) ≠ 0 ∧ (1 : RegNum) ≠ 2 := by decide

theorem witness_ResetWithoutABufferKeepsTheBoundOne :
    configWf configC ∧ configWf { Config.reference with ramSize := ([0xF8] : List Byte).length } ∧
    configA.variant = .a ∧ Config.reference.variant ≠ .a ∧
    configWf { configA with ramSize := ([0xF8] : List Byte).length } ∧
    ¬configWf { configC with ramSize := ([0xF8] : List Byte).length } ∧
    ¬configWf { Config.reference with ramSize := ([] : List Byte).length } := by decide

theorem witness_TheQueriesReportTheState :
    State.reset.screenEnabled = false ∧
    ({ State.reset with screenEnabled := true } : State).screenEnabled = true := by decide

end Sys2Proof.Tests
end

section
namespace Sys2Proof.Machine

/-! ### Which instances an advance refuses (spec/00_scope.md R7, R8) -/

/-- Well-formed instances are never refused: every execute phase answers a next state (R300). -/
theorem step_isNext {s : State} (h : configWf s.cfg) : ∃ t, step s = .next t := by
  obtain ⟨u, hu⟩ := exec_isNext (fetchInstr s) (afterFetch s)
  exact ⟨frameTick u, by rw [step_of_wf h, hu]⟩

theorem step_of_not_wf {s : State} (h : ¬configWf s.cfg) :
    step s = .refused .illFormedInstance := if_neg h

theorem step_illFormedInstance_iff (s : State) :
    step s = .refused .illFormedInstance ↔ ¬configWf s.cfg := by
  refine ⟨fun hrefused hwf => ?_, step_of_not_wf⟩
  obtain ⟨t, hnext⟩ := step_isNext hwf
  rw [hnext] at hrefused
  cases hrefused

/-- The ways to break R7, one per constraint: RAM_SIZE for every variant, then the window constraints
of the variant the instance has. -/
theorem not_configWf_iff (c : Config) :
    ¬configWf c ↔
      c.ramSize = 0 ∨ 65536 < c.ramSize ∨
        (c.variant = .a ∧
          (65536 < c.romABase + c.romAImage.length ∨ c.romABase < c.ramSize)) ∨
        (c.variant = .c ∧ (c.ramSize < 512 ∨ 4096 < c.romCImage.length + 512)) := by
  simp only [configWf, ramWindowC]
  cases c.variant with
  | a =>
    simp only [reduceCtorEq, forall_const, false_implies, and_true, true_and, false_and, or_false]
    omega
  | b =>
    simp only [reduceCtorEq, false_implies, and_true, false_and, or_false]
    omega
  | c =>
    simp only [reduceCtorEq, forall_const, false_implies, true_and, false_and, false_or]
    omega

/-- Settles O8: a refusal is exactly a broken constraint, and the constraints break in these ways. -/
theorem illFormedInstancesAreRefused : Obligations.IllFormedInstancesAreRefused := fun s =>
  (not_configWf_iff s.cfg).symm.trans (step_illFormedInstance_iff s).symm

end Sys2Proof.Machine
end

section
namespace Sys2Proof.Machine

/-! ### Which instruction writes which control field (spec/10_state.md R23 to R37) -/

/-- The control fields of a state: those an instruction may write only where a rule names it. -/
structure Control where
  p : RegNum
  x : RegNum
  t : Byte
  ie : Bool
  q : Bool
  df : Bool
  screenEnabled : Bool
  keyLatch : Byte

def State.control (s : State) : Control where
  p := s.p
  x := s.x
  t := s.t
  ie := s.ie
  q := s.q
  df := s.df
  screenEnabled := s.screenEnabled
  keyLatch := s.keyLatch

/-- The instructions that write DF: arithmetic and shifts (R23). -/
def WritesDF (i : Instr) : Prop :=
  i ∈ [.add, .adc, .sd, .sdb, .sm, .smb, .shr, .shrc, .shl, .shlc] ∨
    ∃ imm, i ∈ [.adi imm, .adci imm, .sdi imm, .sdbi imm, .smi imm, .smbi imm]

/-- The access matrix as a relation: the control fields an instruction may leave, started in `s`. -/
inductive ControlWrite (s : State) : Instr → Control → Prop
  | none (i : Instr) : ControlWrite s i s.control
  | sep (n : RegNum) : ControlWrite s (.sep n) { s.control with p := n }
  | sex (n : RegNum) : ControlWrite s (.sex n) { s.control with x := n }
  | mark : ControlWrite s .mark { s.control with t := packXP s.x s.p, x := s.p }
  | ret (x p : RegNum) : ControlWrite s .ret { s.control with x := x, p := p, ie := true }
  | dis (x p : RegNum) : ControlWrite s .dis { s.control with x := x, p := p, ie := false }
  | seq : ControlWrite s .seq { s.control with q := true }
  | req : ControlWrite s .req { s.control with q := false }
  | carry {i : Instr} (hi : WritesDF i) (c : Bool) : ControlWrite s i { s.control with df := c }
  | screenOn : ControlWrite s (.inp 1) { s.control with screenEnabled := true }
  | screenOff : ControlWrite s (.out 1) { s.control with screenEnabled := false }
  | latch (v : BitVec 4) (hk : latchKind s.cfg.variant = .select) :
      ControlWrite s (.out 2) { s.control with keyLatch := v.zeroExtend 8 }

theorem ControlWrite.of_eq {s : State} {i : Instr} {c : Control} (h : c = s.control) :
    ControlWrite s i c := h ▸ .none i

section
variable (s : State)

theorem branchOnFlag_control (flag : ExternalFlag) (want : Bool) (a : Byte) :
    (branchOnFlag s flag want a).control = s.control := by
  rw [branchOnFlag_eq, testFlag_eq]
  rfl

/-- OUT to any port writes at most the screen flag (port 1) or the select latch (port 2); the port of
Q is not one of its ports, and would write none. -/
theorem execOut_controlWrite (port : Port) :
    ControlWrite s (.out port) (ioOut (incReg s s.x) port (memOperand s)).control := by
  rcases ioOut_cases (incReg s s.x) port (memOperand s) with ⟨-, h⟩ | ⟨rfl, h⟩ | ⟨rfl, hk, h⟩ |
    ⟨-, -, h⟩ | ⟨-, -, h⟩ | ⟨-, -, h⟩ | ⟨-, -, -, -, h⟩ <;> rw [h]
  case inr.inl => exact .screenOff
  case inr.inr.inl => exact .latch _ hk
  all_goals exact .none _

/-- INP from any port writes at most the screen flag (port 1). -/
theorem ioIn_controlWrite (port : Port) :
    ControlWrite s (.inp port) (ioIn s port).2.control := by
  rcases ioIn_cases s port with ⟨rfl, h⟩ | ⟨-, -, h⟩ | ⟨-, -, h⟩ | ⟨-, -, h⟩ <;> rw [h]
  case inl => exact .screenOn
  all_goals exact .none _

end

/-- Once for all instructions: what an execute phase may do to the control fields. -/
theorem exec_controlWrite {i : Instr} {s t : State} (h : exec i s = .next t) :
    ControlWrite s i t.control := by
  cases i <;> injection h with h <;> subst h
  case sep n => exact .sep n
  case sex n => exact .sex n
  case mark => simpa [State.control] using ControlWrite.mark (s := s)
  case ret => exact .ret _ _
  case dis => exact .dis _ _
  case seq => exact .seq
  case req => exact .req
  case out port => exact execOut_controlWrite s port
  case inp port => simpa [State.control] using ioIn_controlWrite s port
  case add | adc | sd | sdb | sm | smb | shr | shrc | shl | shlc =>
    exact .carry (.inl (by simp)) _
  case adi imm | adci imm | sdi imm | sdbi imm | smi imm | smbi imm =>
    exact .carry (.inr ⟨imm, by simp⟩) _
  case b1 | b2 | b3 | b4 | bn1 | bn2 | bn3 | bn4 => exact .of_eq (branchOnFlag_control ..)
  all_goals
    exact .of_eq (by simp [State.control, shortBranch_eq, longBranch_eq, longSkip_eq])

end Sys2Proof.Machine
end

section
namespace Sys2Proof.Machine

/-! ### The writers of each control field -/

section
variable {s : State} {i : Instr} {c : Control}

theorem ControlWrite.writer_p (h : ControlWrite s i c) (hne : c.p ≠ s.p) :
    i = .sep c.p ∨ i = .ret ∨ i = .dis := by
  cases h with
  | sep n => exact .inl rfl
  | ret => exact .inr (.inl rfl)
  | dis => exact .inr (.inr rfl)
  | _ => exact absurd rfl hne

theorem ControlWrite.writer_x (h : ControlWrite s i c) (hne : c.x ≠ s.x) :
    i = .sex c.x ∨ i = .mark ∨ i = .ret ∨ i = .dis := by
  cases h with
  | sex n => exact .inl rfl
  | mark => exact .inr (.inl rfl)
  | ret => exact .inr (.inr (.inl rfl))
  | dis => exact .inr (.inr (.inr rfl))
  | _ => exact absurd rfl hne

theorem ControlWrite.writer_t (h : ControlWrite s i c) (hne : c.t ≠ s.t) : i = .mark := by
  cases h with
  | mark => rfl
  | _ => exact absurd rfl hne

theorem ControlWrite.writer_ie (h : ControlWrite s i c) (hne : c.ie ≠ s.ie) :
    (i = .ret ∧ c.ie = true) ∨ (i = .dis ∧ c.ie = false) := by
  cases h with
  | ret => exact .inl ⟨rfl, rfl⟩
  | dis => exact .inr ⟨rfl, rfl⟩
  | _ => exact absurd rfl hne

theorem ControlWrite.writer_q (h : ControlWrite s i c) (hne : c.q ≠ s.q) :
    (i = .seq ∧ c.q = true) ∨ (i = .req ∧ c.q = false) := by
  cases h with
  | seq => exact .inl ⟨rfl, rfl⟩
  | req => exact .inr ⟨rfl, rfl⟩
  | _ => exact absurd rfl hne

theorem ControlWrite.writer_df (h : ControlWrite s i c) (hne : c.df ≠ s.df) : WritesDF i := by
  cases h with
  | carry hi => exact hi
  | _ => exact absurd rfl hne

theorem ControlWrite.writer_screenEnabled (h : ControlWrite s i c)
    (hne : c.screenEnabled ≠ s.screenEnabled) :
    (i = .inp 1 ∧ c.screenEnabled = true) ∨ (i = .out 1 ∧ c.screenEnabled = false) := by
  cases h with
  | screenOn => exact .inl ⟨rfl, rfl⟩
  | screenOff => exact .inr ⟨rfl, rfl⟩
  | _ => exact absurd rfl hne

theorem variant_ne_b_of_select {v : Variant} (h : latchKind v = .select) : v ≠ .b := by
  rintro rfl
  cases h

theorem ControlWrite.writer_keyLatch (h : ControlWrite s i c) (hne : c.keyLatch ≠ s.keyLatch) :
    i = .out 2 ∧ s.cfg.variant ≠ .b := by
  cases h with
  | latch v hk => exact ⟨rfl, variant_ne_b_of_select hk⟩
  | _ => exact absurd rfl hne

/-- An instruction leaves the latch alone or writes four bits to it. -/
theorem ControlWrite.keyLatch_lt (h : ControlWrite s i c) (hs : s.keyLatch.toNat < 16) :
    c.keyLatch.toNat < 16 := by
  cases h with
  | latch v => simpa using Nat.lt_of_le_of_lt (Nat.mod_le _ _) v.isLt
  | _ => exact hs

end

/-- Settles O45: the access matrix, field by field, with what no instruction writes. -/
theorem onlyTheNamedInstructionsWriteControlState :
    Obligations.OnlyTheNamedInstructionsWriteControlState := by
  intro i s t h
  have hw := exec_controlWrite h
  obtain ⟨hcfg, hframe, hbudget, hbase, hscroll, hkey⟩ := exec_keeps i h
  exact ⟨hw.writer_p, hw.writer_x, hw.writer_t, hw.writer_ie, hw.writer_q, hw.writer_df,
    hw.writer_screenEnabled, hw.writer_keyLatch, hkey, hbase, hscroll, hframe, hbudget, hcfg⟩

/-! ### T and Q over one advance (spec/60_exceptions.md R317, R321) -/

theorem idlWake_control (s : State) : (idlWake s).control = s.control := by
  rw [idlWake_eq]
  rfl

theorem bulkToIP_t (s : State) :
    (bulkToIP s).t = s.t ∨
      ((bulkToIP s).p = 1 ∧ (bulkToIP s).x = 2 ∧ (bulkToIP s).ie = false) := by
  rcases bulkToIP_cases s with ⟨-, h⟩ | ⟨-, -, h⟩ | ⟨-, -, h⟩
  · exact .inl (by rw [h])
  · exact .inl (by rw [h]; exact congrArg Control.t (idlWake_control s))
  · exact .inr (by rw [h]; exact ⟨rfl, rfl, rfl⟩)

/-- The bookkeeping writes T only by delivering an interrupt at the end of Bulk. -/
theorem frameTick_t (s : State) :
    (frameTick s).t = s.t ∨
      (s.frameState = .bulk ∧ s.budget < 2 ∧
        (frameTick s).p = 1 ∧ (frameTick s).x = 2 ∧ (frameTick s).ie = false) := by
  rcases frameTick_cases s with ⟨-, h⟩ | ⟨hbudget, hframe, h⟩ | ⟨-, -, h⟩
  · exact .inl (by rw [h])
  · rw [h]
    exact (bulkToIP_t { s with budget := s.budget - 2 }).imp_right (⟨hframe, hbudget, ·⟩)
  · exact .inl (by rw [h, ipToBulk_eq])

/-- Settles O46: an advance is one execute phase, which writes T and Q only by the instructions of
the access matrix, and one bookkeeping, which writes T only by a delivery. -/
theorem anAdvanceWritesTOnlyByMarkOrInterrupt :
    Obligations.AnAdvanceWritesTOnlyByMarkOrInterrupt := by
  intro s t h
  obtain ⟨-, u, hu, rfl⟩ := step_next h
  have hw := exec_controlWrite hu
  obtain ⟨-, hframe, hbudget, -⟩ := exec_keeps _ hu
  obtain ⟨-, -, hd, hdf, hq, -⟩ := frameTick_keeps u
  refine ⟨fun hne => ?_, fun hne => ?_, u, hu, hd, hdf, hq⟩
  · rcases frameTick_t u with ht | ⟨hbulk, hlow, hdelivered⟩
    · exact .inl (hw.writer_t fun e => hne (ht.trans e))
    · exact .inr ⟨hframe ▸ hbulk, by rw [hbudget] at hlow; exact hlow, hdelivered⟩
  · exact (hw.writer_q fun e => hne (hq.trans e)).imp And.left And.left

end Sys2Proof.Machine
end

section
namespace Sys2Proof.Machine

/-! ### The commands and the stores of an execute phase (spec/20_memory.md R60, 60_exceptions.md R340) -/

/-- The commands an execute phase may issue from `s`, with the parameters they may have: Q's new
value, the display's data, the latched key of a live flag 3, the secondary key of flag 4. -/
inductive MayIssue (s : State) : HostEvent → Prop
  | outputFlag (v : Byte) (hv : v.toNat ≤ 1) :
      MayIssue s { command := .updateOutputFlag, parameter := v }
  | display (v : Byte) : MayIssue s { command := .updateDisplay, parameter := v }
  | latchedKey (hl : ef3Live s.cfg.variant = true) :
      MayIssue s { command := .readKeyboard, parameter := s.keyLatch }
  | secondaryKey : MayIssue s { command := .readSecondaryKey, parameter := 0 }

/-- The record is that of `s`, or one command that `s` may issue was added. -/
def IssuesAtMostOne (s : State) (log : List HostEvent) : Prop :=
  log = s.hostLog ∨ ∃ e, MayIssue s e ∧ log = e :: s.hostLog

theorem testFlag_issues (s : State) (flag : ExternalFlag) :
    IssuesAtMostOne s (testFlag s flag).2.hostLog := by
  rcases testFlag_cases s flag with ⟨-, h⟩ | ⟨-, h⟩ | ⟨-, -, h⟩ | ⟨-, -, hl, h⟩ | ⟨-, -, -, h⟩ |
    ⟨-, h⟩ <;> rw [h]
  case inr.inr.inr.inl => exact .inr ⟨_, .latchedKey hl, hostPoll_hostLog ..⟩
  case inr.inr.inr.inr.inr => exact .inr ⟨_, .secondaryKey, hostPoll_hostLog ..⟩
  all_goals exact .inl rfl

theorem branchOnFlag_issues (s : State) (flag : ExternalFlag) (want : Bool) (a : Byte) :
    IssuesAtMostOne s (branchOnFlag s flag want a).hostLog := by
  rw [branchOnFlag_eq]
  exact testFlag_issues s flag

/-- The output ports 1 to 7 issue at most one command; port 0, which is no output port, is Q's. -/
theorem ioOut_hostLog {s : State} {port : Port} (hp : port ≠ 0) (data : Byte) :
    (ioOut s port data).hostLog = s.hostLog ∨
      (ioOut s port data).hostLog =
        { command := .updateDisplay, parameter := data } :: s.hostLog := by
  rcases ioOut_cases s port data with ⟨h0, -⟩ | ⟨-, h⟩ | ⟨-, -, h⟩ | ⟨-, -, h⟩ | ⟨-, -, h⟩ |
    ⟨-, -, h⟩ | ⟨-, -, -, -, h⟩
  case inl => exact absurd h0 hp
  case inr.inr.inr.inr.inl => exact .inr (by rw [h]; rfl)
  all_goals exact .inl (by rw [h])

/-- An input changes at most the screen flag (R283). -/
theorem ioIn_eq (s : State) (port : Port) :
    (ioIn s port).2 = { s with screenEnabled := (ioIn s port).2.screenEnabled } := by
  rcases ioIn_cases s port with ⟨-, h⟩ | ⟨-, -, h⟩ | ⟨-, -, h⟩ | ⟨-, -, h⟩ <;> rw [h]

@[simp] theorem ioIn_cfg (s : State) (port : Port) : (ioIn s port).2.cfg = s.cfg := by
  rw [ioIn_eq]
@[simp] theorem ioIn_mem (s : State) (port : Port) : (ioIn s port).2.mem = s.mem := by
  rw [ioIn_eq]
@[simp] theorem ioIn_hostLog (s : State) (port : Port) : (ioIn s port).2.hostLog = s.hostLog := by
  rw [ioIn_eq]

@[simp] theorem ioOut_mem (s : State) (port : Port) (data : Byte) :
    (ioOut s port data).mem = s.mem := by
  rcases ioOut_cases s port data with ⟨-, h⟩ | ⟨-, h⟩ | ⟨-, -, h⟩ | ⟨-, -, h⟩ | ⟨-, -, h⟩ |
    ⟨-, -, h⟩ | ⟨-, -, -, -, h⟩ <;> rw [h] <;> rfl

/-- Once for all instructions: an execute phase issues at most one command, of those named. -/
theorem exec_issues {i : Instr} {s t : State} (hi : i.WellFormed = true)
    (h : exec i s = .next t) : IssuesAtMostOne s t.hostLog := by
  cases i <;> injection h with h <;> subst h
  case b1 | b2 | b3 | b4 | bn1 | bn2 | bn3 | bn4 => exact branchOnFlag_issues ..
  case seq => exact .inr ⟨_, .outputFlag 1 (by decide), rfl⟩
  case req => exact .inr ⟨_, .outputFlag 0 (by decide), rfl⟩
  case out port =>
    have hp : port ≠ 0 := by simpa [Instr.WellFormed] using hi
    exact (ioOut_hostLog hp (memOperand s)).imp id fun h => ⟨_, .display _, h⟩
  all_goals
    exact .inl (by simp [shortBranch_eq, longBranch_eq, longSkip_eq, returnWith])

/-- Once for all instructions: an execute phase leaves the buffer alone or writes one byte through
the Memory Map. -/
theorem exec_mem {i : Instr} {s t : State} (h : exec i s = .next t) :
    t.mem = s.mem ∨ ∃ a v, t.mem = (writeByte s a v).mem := by
  cases i <;> injection h with h <;> subst h
  case str | stxd | sav => exact .inr ⟨_, _, rfl⟩
  case mark => exact .inr ⟨_, _, writeByte_mem_congr (by rfl) (by rfl) ..⟩
  case inp port => exact .inr ⟨_, _, writeByte_mem_congr (ioIn_cfg ..) (ioIn_mem ..) ..⟩
  case b1 | b2 | b3 | b4 | bn1 | bn2 | bn3 | bn4 =>
    exact .inl (by rw [branchOnFlag_eq, testFlag_eq]; rfl)
  case seq | req | out => exact .inl (ioOut_mem ..)
  all_goals
    exact .inl (by simp [shortBranch_eq, longBranch_eq, longSkip_eq, returnWith])

/-! ### The invariant, part by part (spec/10_state.md R39) -/

theorem writeByte_mem_cases (s : State) (a : Word) (v : Byte) :
    (writeByte s a v).mem = s.mem ∨
      ∃ k, place s.cfg a = .ram k ∧ (writeByte s a v).mem = ramWrite s.mem k v := by
  by_cases h : ∃ k, place s.cfg a = .ram k
  · obtain ⟨k, hk⟩ := h
    exact .inr ⟨k, hk, writeByte_mem_ram hk v⟩
  · exact .inl (by rw [writeByte_discarded fun k hk => h ⟨k, hk⟩])

theorem writeByte_mem_wf {s : State} (h : Memory.wf s.mem) (a : Word) (v : Byte) :
    Memory.wf (writeByte s a v).mem := by
  rcases writeByte_mem_cases s a v with hm | ⟨k, -, hm⟩ <;> rw [hm]
  · exact h
  · exact ramWrite_wf h k v

theorem writeByte_cells_lt {s : State} (hc : configWf s.cfg) (h : RamInRange s) (a : Word)
    (v : Byte) : ∀ c ∈ (writeByte s a v).mem, c.1 < s.cfg.ramSize := by
  rcases writeByte_mem_cases s a v with hm | ⟨k, hk, hm⟩ <;> rw [hm]
  · exact h
  · intro c hcell
    rcases mem_ramWrite hcell with ⟨rfl, -⟩ | hold
    · exact place_ram_lt hc hk
    · exact h c hold

/-- A live flag 3 belongs to a select latch, so the key it asks for is 0 to 15 (R290, R282). -/
theorem select_of_ef3Live {v : Variant} (h : ef3Live v = true) : latchKind v = .select := by
  cases v with
  | a => rfl
  | b => cases h
  | c => rfl

theorem MayIssue.legal {s : State} {e : HostEvent} (h : MayIssue s e) (hl : LatchLegal s) :
    EventLegal e := by
  cases h with
  | outputFlag v hv => exact hv
  | display v => trivial
  | latchedKey hlive => exact hl (select_of_ef3Live hlive)
  | secondaryKey => exact rfl

theorem IssuesAtMostOne.legal {s : State} {log : List HostEvent} (h : IssuesAtMostOne s log)
    (hl : LatchLegal s) (hs : ∀ e ∈ s.hostLog, EventLegal e) : ∀ e ∈ log, EventLegal e := by
  rcases h with rfl | ⟨e, he, rfl⟩
  · exact hs
  · exact List.forall_mem_cons.mpr ⟨he.legal hl, hs⟩

/-- An execute phase keeps the invariant. -/
theorem Inv.exec {i : Instr} {s t : State} (hs : Inv s) (hi : i.WellFormed = true)
    (h : exec i s = .next t) : Inv t := by
  obtain ⟨hcfg, hframe, hbudget, -⟩ := exec_keeps i h
  refine ⟨hcfg ▸ hs.instanceOk, ?canonical, ?inRange, fun hk => ?latch, ?budget,
    (exec_issues hi h).legal hs.latch hs.log⟩
  case canonical =>
    rcases exec_mem h with hm | ⟨a, v, hm⟩ <;> rw [hm]
    · exact hs.memCanonical
    · exact writeByte_mem_wf hs.memCanonical a v
  case inRange =>
    unfold RamInRange
    rw [hcfg]
    rcases exec_mem h with hm | ⟨a, v, hm⟩ <;> rw [hm]
    · exact hs.memInRange
    · exact writeByte_cells_lt hs.instanceOk hs.memInRange a v
  case latch => exact (exec_controlWrite h).keyLatch_lt (hs.latch (hcfg ▸ hk))
  case budget =>
    unfold BudgetLegal
    rw [hcfg, hframe, hbudget]
    exact hs.budget

/-- The invariant does not speak of the scratch registers. -/
theorem Inv.setReg {s : State} (hs : Inv s) (n : RegNum) (v : Word) : Inv (setReg s n v) :=
  ⟨hs.instanceOk, hs.memCanonical, hs.memInRange, hs.latch, hs.budget, hs.log⟩

/-! ### The bookkeeping keeps the invariant -/

/-- What the end of Bulk changes: registers by the wake, P, X, T and IE by a delivery, and the phase
(R314 to R317). -/
theorem bulkToIP_eq (s : State) :
    bulkToIP s =
      { s with
        regs := (bulkToIP s).regs
        p := (bulkToIP s).p
        x := (bulkToIP s).x
        t := (bulkToIP s).t
        ie := (bulkToIP s).ie
        frameState := .interruptPreliminary
        budget := ipBudget } := by
  rcases bulkToIP_cases s with ⟨-, h⟩ | ⟨-, -, h⟩ | ⟨-, -, h⟩ <;> rw [h]
  · rw [idlWake_eq]
    rfl
  · rw [idlWake_eq]
    rfl

theorem bulkToIP_keyLatch (s : State) : (bulkToIP s).keyLatch = s.keyLatch := by
  rw [bulkToIP_eq]

theorem bulkToIP_hostLog (s : State) : (bulkToIP s).hostLog = s.hostLog := by
  rw [bulkToIP_eq]

theorem bulkToIP_frameState (s : State) : (bulkToIP s).frameState = .interruptPreliminary := rfl

theorem bulkToIP_budget (s : State) : (bulkToIP s).budget = ipBudget := rfl

/-- A key edge leaves a select latch alone (R327). -/
theorem keyEdge_keyLatch_of_select {s : State} (hk : latchKind s.cfg.variant = .select)
    (k : Option Key) : (keyEdge s k).keyLatch = s.keyLatch := by
  rcases keyEdge_cases s k with ⟨-, h⟩ | ⟨-, -, h⟩ | ⟨key, -, hshift, -, -⟩
  · rw [h]
  · rw [h]
  · rw [hk] at hshift
    cases hshift

theorem ipToBulk_keyLatch_of_select {s : State} (hk : latchKind s.cfg.variant = .select) :
    (ipToBulk s).keyLatch = s.keyLatch := by
  simp only [ipToBulk]
  rw [keyEdge_keyLatch_of_select] <;> rw [pollKeys_eq]
  · rfl
  · exact hk

/-- The commands of the transition, newest first: sixteen key polls after one frame sync
(R323, R324). -/
theorem ipToBulk_hostLog (s : State) :
    (ipToBulk s).hostLog =
      (allKeys.map (fun k => HostEvent.mk .readKeyboard (k.zeroExtend 8))).reverse ++
        { command := .frameSync, parameter := 0 } :: s.hostLog := by
  simp only [ipToBulk]
  rw [keyEdge_eq]
  exact pollKeys_hostLog ..

theorem keyPoll_legal (k : Key) :
    EventLegal { command := .readKeyboard, parameter := k.zeroExtend 8 } := by
  have := k.isLt
  simp only [EventLegal, BitVec.truncate_eq_setWidth, BitVec.toNat_setWidth]
  omega

theorem ipToBulk_log_legal {s : State} (hs : ∀ e ∈ s.hostLog, EventLegal e) :
    ∀ e ∈ (ipToBulk s).hostLog, EventLegal e := by
  rw [ipToBulk_hostLog]
  intro e he
  rcases List.mem_append.mp he with hpoll | hrest
  · obtain ⟨k, -, rfl⟩ := List.mem_map.mp (List.mem_reverse.mp hpoll)
    exact keyPoll_legal k
  · rcases List.mem_cons.mp hrest with rfl | hold
    · exact rfl
    · exact hs e hold

theorem LatchLegal.frameTick {s : State} (hl : LatchLegal s) : LatchLegal (frameTick s) := by
  intro hk
  have hsel : latchKind s.cfg.variant = .select := (frameTick_keeps s).1 ▸ hk
  rcases frameTick_cases s with ⟨-, h⟩ | ⟨-, -, h⟩ | ⟨-, -, h⟩ <;> rw [h]
  · exact hl hsel
  · rw [bulkToIP_keyLatch]
    exact hl hsel
  · rw [ipToBulk_keyLatch_of_select (by exact hsel)]
    exact hl hsel

theorem budgetLegal_bulk {s : State} (hf : s.frameState = .bulk) :
    BudgetLegal s ↔ 0 ≤ s.budget ∧ s.budget ≤ s.cfg.bulkBudget := by
  simp [BudgetLegal, hf]

theorem budgetLegal_interruptPreliminary {s : State}
    (hf : s.frameState = .interruptPreliminary) :
    BudgetLegal s ↔ 0 ≤ s.budget ∧ s.budget ≤ ipBudget := by
  simp [BudgetLegal, hf]

/-- Counting stays within the phase's budget. -/
theorem BudgetLegal.count {s t : State} (hb : BudgetLegal s) (h2 : 2 ≤ s.budget)
    (hcfg : t.cfg = s.cfg) (hframe : t.frameState = s.frameState)
    (hbudget : t.budget = s.budget - 2) : BudgetLegal t := by
  cases hf : s.frameState with
  | bulk =>
    obtain ⟨-, hle⟩ := (budgetLegal_bulk hf).mp hb
    rw [budgetLegal_bulk (hframe.trans hf), hcfg, hbudget]
    omega
  | interruptPreliminary =>
    obtain ⟨-, hle⟩ := (budgetLegal_interruptPreliminary hf).mp hb
    rw [budgetLegal_interruptPreliminary (hframe.trans hf), hbudget]
    omega

/-- Each transition enters the other phase with its whole budget (R313). -/
theorem BudgetLegal.frameTick {s : State} (hb : BudgetLegal s) : BudgetLegal (frameTick s) := by
  rcases frameTick_cases s with ⟨h2, h⟩ | ⟨-, -, h⟩ | ⟨-, -, h⟩ <;> rw [h]
  · exact hb.count h2 rfl rfl rfl
  · rw [budgetLegal_interruptPreliminary (bulkToIP_frameState _), bulkToIP_budget]
    exact ⟨by decide, le_refl _⟩
  · rw [ipToBulk_eq]
    exact (budgetLegal_bulk rfl).mpr ⟨Int.natCast_nonneg _, le_refl _⟩

theorem frameTick_log_legal {s : State} (hs : ∀ e ∈ s.hostLog, EventLegal e) :
    ∀ e ∈ (frameTick s).hostLog, EventLegal e := by
  rcases frameTick_cases s with ⟨-, h⟩ | ⟨-, -, h⟩ | ⟨-, -, h⟩ <;> rw [h]
  · exact hs
  · rw [bulkToIP_hostLog]
    exact hs
  · exact ipToBulk_log_legal hs

/-- The bookkeeping of an advance keeps the invariant, whether it only counts or ends a phase. -/
theorem Inv.frameTick {s : State} (hs : Inv s) : Inv (frameTick s) := by
  obtain ⟨hcfg, hmem, -⟩ := frameTick_keeps s
  refine ⟨hcfg ▸ hs.instanceOk, hmem ▸ hs.memCanonical, ?_, hs.latch.frameTick,
    hs.budget.frameTick, frameTick_log_legal hs.log⟩
  unfold RamInRange
  rw [hcfg, hmem]
  exact hs.memInRange

/-- Settles O9: fetch, execute phase and bookkeeping each keep the invariant, and the decoder answers
only well-formed instructions. -/
theorem everyAdvanceKeepsTheInvariant : Obligations.EveryAdvanceKeepsTheInvariant := by
  intro s t hs h
  obtain ⟨-, u, hu, rfl⟩ := step_next h
  exact ((hs.setReg _ _).exec (decodeOp_wellFormed ..) hu).frameTick

end Sys2Proof.Machine
end

section
namespace Sys2Proof.Machine

/-! ### Registers that count (spec/41_register_operations.md R140 to R142) -/

/-- An assignment to a scratch register changes that register and nothing else. -/
theorem setReg_frame (s : State) (n : RegNum) (v : Word) :
    OtherRegsKept s (setReg s n v) n ∧
      setReg s n v = { s with regs := (setReg s n v).regs } ∧ SameMemory s (setReg s n v) :=
  ⟨fun m hm => getReg_setReg_other s n m v hm, rfl, readByte_congr rfl rfl⟩

theorem getReg_incReg_toNat (s : State) (n : RegNum) :
    (getReg (incReg s n) n).toNat = ((getReg s n).toNat + 1) % 65536 := by
  rw [getReg_incReg_same, BitVec.toNat_add]
  rfl

theorem getReg_decReg_toNat (s : State) (n : RegNum) :
    (getReg (decReg s n) n).toNat = ((getReg s n).toNat + 65535) % 65536 := by
  rw [getReg_decReg_same]
  bv_omega

/-- Settles O22: the three instructions are `incReg` or `decReg` of one register. -/
theorem countingInstructionsWrap : Obligations.CountingInstructionsWrap := fun s n =>
  ⟨⟨incReg s n, rfl, getReg_incReg_toNat s n, setReg_frame ..⟩,
    ⟨decReg s n, rfl, getReg_decReg_toNat s n, setReg_frame ..⟩,
    ⟨incReg s s.x, rfl, getReg_incReg_toNat s s.x, setReg_frame ..⟩⟩

/-! ### Reset (spec/70_reset_and_hazards.md R360 to R363) -/

/-- The register table of reset: R[0] is cleared, Variant A preloads R[2], the rest is drawn
(R360, R361). -/
theorem resetRegs_eq (c : Config) (draws : ResetDraws) :
    resetRegs c draws =
      if c.variant = .a then (draws.regs.set 0 0).set 2 c.preloadR2 else draws.regs.set 0 0 := by
  unfold resetRegs
  cases c.variant <;> rfl

theorem preloaded_of_a {α : Type} {c : Config} (h : c.variant = .a) (preload other : α) :
    preloaded c preload other = preload := by
  simp [preloaded, h]

theorem preloaded_of_ne_a {α : Type} {c : Config} (h : c.variant ≠ .a) (preload other : α) :
    preloaded c preload other = other := by
  unfold preloaded
  cases hv : c.variant with
  | a => exact absurd hv h
  | b => rfl
  | c => rfl

section
variable (draws : ResetDraws) (s : State)

theorem getReg_resetState_zero : getReg (resetState draws s) 0 = 0x0000 := by
  simp only [getReg, resetState, resetRegs_eq]
  split <;> simp

theorem getReg_resetState_drawn {n : RegNum} (h0 : n ≠ 0) (h2 : n ≠ 2) :
    getReg (resetState draws s) n = draws.regs[n.toNat] := by
  have h0' : 0 ≠ n.toNat := fun e => h0 (BitVec.eq_of_toNat_eq e.symm)
  have h2' : 2 ≠ n.toNat := fun e => h2 (BitVec.eq_of_toNat_eq e.symm)
  simp only [getReg, resetState, resetRegs_eq]
  split <;> simp [h0', h2']

theorem getReg_resetState_two_of_a (h : s.cfg.variant = .a) :
    getReg (resetState draws s) 2 = s.cfg.preloadR2 := by
  simp [getReg, resetState, resetRegs_eq, h]

theorem getReg_resetState_two_of_ne_a (h : s.cfg.variant ≠ .a) :
    getReg (resetState draws s) 2 = draws.regs[2] := by
  simp [getReg, resetState, resetRegs_eq, h]

end

/-- What reset leaves that does not depend on the buffer: the table of R38 for the parameters `c` and
the draws, and the host's side as it was. -/
def ResetLeaves (draws : ResetDraws) (c : Config) (log : List HostEvent) (answers : List Bool)
    (t : State) : Prop :=
  getReg t 0 = 0x0000 ∧ t.q = false ∧ t.ie = true ∧
    t.frameState = .bulk ∧ t.budget = c.bulkBudget ∧ t.screenEnabled = false ∧
    t.curKey = none ∧ t.keyLatch = 0 ∧
    t.t = draws.t ∧ t.df = draws.df ∧ t.screenBase = draws.screenBase ∧ t.scroll = draws.scroll ∧
    (∀ n : RegNum, n ≠ 0 → n ≠ 2 → getReg t n = draws.regs[n.toNat]) ∧
    (c.variant = .a →
      t.p = c.preloadP ∧ t.x = c.preloadX ∧ t.d = c.preloadD ∧ getReg t 2 = c.preloadR2) ∧
    (c.variant ≠ .a → t.p = 0 ∧ t.x = 0 ∧ t.d = draws.d ∧ getReg t 2 = draws.regs[2]) ∧
    t.hostLog = log ∧ t.hostAnswers = answers

theorem resetState_leaves (draws : ResetDraws) (s : State) :
    ResetLeaves draws s.cfg s.hostLog s.hostAnswers (resetState draws s) := by
  refine ⟨getReg_resetState_zero draws s, rfl, rfl, rfl, rfl, rfl, rfl, rfl, rfl, rfl, rfl, rfl,
    fun n h0 h2 => getReg_resetState_drawn draws s h0 h2, fun ha => ?preload,
    fun hne => ?noPreload, rfl, rfl⟩
  case preload =>
    exact ⟨preloaded_of_a ha .., preloaded_of_a ha .., preloaded_of_a ha ..,
      getReg_resetState_two_of_a draws s ha⟩
  case noPreload =>
    exact ⟨preloaded_of_ne_a hne .., preloaded_of_ne_a hne .., preloaded_of_ne_a hne ..,
      getReg_resetState_two_of_ne_a draws s hne⟩

/-! ### Binding a buffer, and the refusal of one -/

/-- The state a reset starts from: with the supplied buffer bound, or as it is (R363). -/
def withBuffer : Option (List Byte) → State → State
  | some bytes, s => bindRam bytes s
  | none, s => s

/-- A reset is the table over the bound state, or the refusal of its parameters. -/
theorem resetOp_eq (draws : ResetDraws) (buffer : Option (List Byte)) (s : State) :
    resetOp draws buffer s =
      if configWf (withBuffer buffer s).cfg then .next (resetState draws (withBuffer buffer s))
      else .refused .illFormedInstance := by
  cases buffer <;> rfl

theorem resetOp_of_wf (draws : ResetDraws) {buffer : Option (List Byte)} {s : State}
    (h : configWf (withBuffer buffer s).cfg) :
    resetOp draws buffer s = .next (resetState draws (withBuffer buffer s)) := by
  rw [resetOp_eq, if_pos h]

theorem resetOp_of_not_wf (draws : ResetDraws) {buffer : Option (List Byte)} {s : State}
    (h : ¬configWf (withBuffer buffer s).cfg) :
    resetOp draws buffer s = .refused .illFormedInstance := by
  rw [resetOp_eq, if_neg h]

theorem resetOp_next {draws : ResetDraws} {buffer : Option (List Byte)} {s t : State}
    (h : resetOp draws buffer s = .next t) :
    configWf (withBuffer buffer s).cfg ∧ t = resetState draws (withBuffer buffer s) := by
  by_cases hw : configWf (withBuffer buffer s).cfg
  · rw [resetOp_of_wf draws hw] at h
    injection h with h
    exact ⟨hw, h.symm⟩
  · rw [resetOp_of_not_wf draws hw] at h
    cases h

/-- A bound buffer reads as the bytes supplied. -/
theorem ramRead_bindRam (bytes : List Byte) (s : State) (j : Nat) (h : j < bytes.length) :
    ramRead (bindRam bytes s).mem j = bytes[j] := by
  simpa [bindRam] using ramRead_ramOfBytes 0 bytes j h

theorem bindRam_ramInRange (bytes : List Byte) (s : State) : RamInRange (bindRam bytes s) := by
  intro c hc
  have hlt := (ramOfBytes_above hc).2
  rwa [Nat.zero_add] at hlt

/-- Reset meets the invariant where the parameters, the buffer and the record already do: the latch and
the budget are its own. -/
theorem inv_resetState {s : State} (draws : ResetDraws) (hc : configWf s.cfg)
    (hm : Memory.wf s.mem) (hr : RamInRange s) (hl : ∀ e ∈ s.hostLog, EventLegal e) :
    Inv (resetState draws s) where
  instanceOk := hc
  memCanonical := hm
  memInRange := hr
  latch _ := show (0 : Nat) < 16 by decide
  budget := (budgetLegal_bulk rfl).mpr ⟨Int.natCast_nonneg _, le_refl _⟩
  log := hl

/-- Settles O11: a supplied buffer is canonical and inside its own size, and a kept one is as the
invariant had it. -/
theorem everyResetMeetsTheInvariant : Obligations.EveryResetMeetsTheInvariant := by
  refine fun draws s t => ⟨fun bytes hlog h => ?_, fun hs h => ?_⟩
  · obtain ⟨hwf, rfl⟩ := resetOp_next h
    exact inv_resetState draws hwf (ramOfBytes_wf 0 bytes) (bindRam_ramInRange bytes s) hlog
  · obtain ⟨hwf, rfl⟩ := resetOp_next h
    exact inv_resetState draws hwf hs.memCanonical hs.memInRange hs.log

/-- The first reset with a buffer is a reset of a machine that has issued nothing yet. -/
theorem firstReset_some (c : Config) (answers : List Bool) (draws : ResetDraws)
    (bytes : List Byte) :
    firstReset c answers draws (some bytes) =
      resetOp draws (some bytes) { State.reset with cfg := c, hostAnswers := answers } := rfl

/-- Settles O10: `State.reset` is what a first reset of the reference configuration answers. -/
theorem resetMeetsTheInvariant : Obligations.ResetMeetsTheInvariant := by
  have h := reset_eq_firstReset
  rw [firstReset_some] at h
  exact (everyResetMeetsTheInvariant zeroDraws _ _).1 _ (fun _ he => absurd he List.not_mem_nil) h

/-- Settles O58: a reset of an accepted buffer, or of the bound one, is `resetState` over it. -/
theorem resetSetsTheListedValues : Obligations.ResetSetsTheListedValues := by
  rintro draws buffer s c rfl hwf
  cases buffer with
  | none =>
    exact ⟨resetState draws s, resetOp_of_wf draws hwf, rfl, nofun, fun _ => rfl,
      resetState_leaves draws s⟩
  | some bytes =>
    refine ⟨resetState draws (bindRam bytes s), resetOp_of_wf draws hwf, rfl, ?_,
      nofun, resetState_leaves draws (bindRam bytes s)⟩
    rintro _ ⟨⟩
    exact ramRead_bindRam bytes s

/-- A reset with a buffer that meets the constraints: the buffer is bound, and the table holds. -/
theorem resetOp_some (draws : ResetDraws) (bytes : List Byte) (s : State)
    (hwf : configWf { s.cfg with ramSize := bytes.length }) :
    ∃ t, resetOp draws (some bytes) s = .next t ∧
      t.cfg = { s.cfg with ramSize := bytes.length } ∧
      (∀ j (h : j < bytes.length), ramRead t.mem j = bytes[j]) ∧
      ResetLeaves draws s.cfg s.hostLog s.hostAnswers t :=
  ⟨resetState draws (bindRam bytes s), resetOp_of_wf (buffer := some bytes) draws hwf, rfl,
    ramRead_bindRam bytes s, resetState_leaves draws (bindRam bytes s)⟩

/-- Settles O59: every clause with a buffer is one reset, bound or refused by `configWf`. -/
theorem resetWithoutABufferKeepsTheBoundOne :
    Obligations.ResetWithoutABufferKeepsTheBoundOne := by
  refine ⟨fun draws s hwf => ?kept, fun draws bytes s => ⟨fun hwf => ?bound, fun hwf => ?refused⟩,
    fun _ _ _ => rfl, fun c answers draws bytes => ⟨fun hwf => ?firstRefused, fun hwf => ?first⟩⟩
  case kept =>
    exact ⟨resetState draws s, resetOp_of_wf (buffer := none) draws hwf, rfl, rfl,
      readByte_congr rfl rfl⟩
  case bound =>
    obtain ⟨t, ht, hcfg, hmem, -⟩ := resetOp_some draws bytes s hwf
    exact ⟨t, ht, hcfg, hmem⟩
  case refused => exact resetOp_of_not_wf (buffer := some bytes) draws hwf
  case firstRefused =>
    rw [firstReset_some]
    exact resetOp_of_not_wf (buffer := some bytes) draws hwf
  case first =>
    rw [firstReset_some]
    exact resetOp_some draws bytes { State.reset with cfg := c, hostAnswers := answers } hwf

/-! ### The queries (spec/10_state.md R40, 60_exceptions.md R346, R348) -/

theorem screenPointer_toNat (s : State) :
    (screenPointer s).toNat = (s.screenBase.toNat + s.scroll.toNat) % 65536 := by
  have hscroll := s.scroll.isLt
  simp only [screenPointer, BitVec.truncate_eq_setWidth, BitVec.toNat_add, BitVec.toNat_setWidth]
  omega

theorem screenQuery_disabled {s : State} (h : s.screenEnabled = false) :
    screenQuery s = (none, s.scroll) := by
  simp [screenQuery, h]

theorem screenQuery_enabled {s : State} (h : s.screenEnabled = true) :
    screenQuery s = (some (screenPointer s), s.scroll) := by
  simp [screenQuery, h]

/-- Settles O60: the other queries are the state's own fields. -/
theorem theQueriesReportTheState : Obligations.TheQueriesReportTheState := fun s =>
  ⟨screenQuery_disabled,
    fun h => ⟨screenPointer s, screenQuery_enabled h, screenPointer_toNat s⟩,
    rfl, fun _ => rfl, rfl, rfl, rfl, rfl, rfl, rfl, rfl, rfl, rfl, rfl⟩

end Sys2Proof.Machine
end

section
namespace Sys2Proof.Machine

/-! ### One advance and the buffer (spec/20_memory.md R60, R61) -/

/-- What an instruction stores, as the buffer it leaves when started in `s`. -/
def storedMem (i : Instr) (s : State) : Memory :=
  match storeAddress i s with
  | some a => (writeByte s a (storeValue i s)).mem
  | none => s.mem

theorem storedMem_some {i : Instr} {s : State} {a : Word} (h : storeAddress i s = some a) :
    storedMem i s = (writeByte s a (storeValue i s)).mem := by
  simp only [storedMem, h]

theorem storedMem_none {i : Instr} {s : State} (h : storeAddress i s = none) :
    storedMem i s = s.mem := by
  simp only [storedMem, h]

theorem storeValue_inp (s : State) (port : Port) :
    storeValue (.inp port) s =
      if port = 4 ∧ s.cfg.variant = .b then s.keyLatch else 0x00 := rfl

/-- The byte an input answers is the one INP stores: the latch at port 4 of Variant B, else zero
(R287, R288). -/
theorem ioIn_value (s : State) (port : Port) : (ioIn s port).1 = storeValue (.inp port) s := by
  have hport4 : hasPort4 s.cfg.variant = true ↔ s.cfg.variant = .b := by
    cases s.cfg.variant <;> decide
  rcases ioIn_cases s port with ⟨rfl, h⟩ | ⟨rfl, h4, h⟩ | ⟨rfl, h4, h⟩ | ⟨-, hne, h⟩ <;>
    rw [h, storeValue_inp]
  · exact (if_neg fun e => absurd e.1 (by decide)).symm
  · exact (if_pos ⟨rfl, hport4.mp h4⟩).symm
  · exact (if_neg fun e => Bool.false_ne_true (h4.symm.trans (hport4.mpr e.2))).symm
  · exact (if_neg fun e => hne e.1).symm

/-- INP stores after the input, whose only effect is the screen flag. -/
theorem execInp_mem (s : State) (port : Port) :
    (writeByte (ioIn s port).2 (getReg (ioIn s port).2 (ioIn s port).2.x) (ioIn s port).1).mem =
      (writeByte s (getReg s s.x) (storeValue (.inp port) s)).mem := by
  have haddr : getReg (ioIn s port).2 (ioIn s port).2.x = getReg s s.x := by
    rw [ioIn_eq]
    rfl
  rw [haddr, ioIn_value]
  exact writeByte_mem_congr (ioIn_cfg ..) (ioIn_mem ..) ..

/-- Once for all instructions: the buffer after an execute phase holds the instruction's own store
and no other change. -/
theorem exec_mem_eq {i : Instr} {s t : State} (h : exec i s = .next t) : t.mem = storedMem i s := by
  cases i <;> injection h with h <;> subst h
  case str | stxd | sav => rfl
  case mark => exact writeByte_mem_congr (by rfl) (by rfl) ..
  case inp port => exact execInp_mem s port
  case b1 | b2 | b3 | b4 | bn1 | bn2 | bn3 | bn4 => rw [branchOnFlag_eq, testFlag_eq]; rfl
  case seq | req | out => exact ioOut_mem ..
  all_goals
    refine Eq.trans ?_ (storedMem_none rfl).symm
    simp [shortBranch_eq, longBranch_eq, longSkip_eq, returnWith]

theorem step_cfg {s t : State} (h : step s = .next t) : t.cfg = s.cfg := by
  obtain ⟨-, u, hu, rfl⟩ := step_next h
  exact (frameTick_keeps u).1.trans (exec_keeps _ hu).1

/-- The bookkeeping writes no memory (R317, R321): the buffer after an advance is that of its execute
phase. -/
theorem step_mem {s t : State} (h : step s = .next t) :
    t.mem = storedMem (fetchInstr s) (afterFetch s) := by
  obtain ⟨-, u, hu, rfl⟩ := step_next h
  exact (frameTick_keeps u).2.1.trans (exec_mem_eq hu)

/-- Settles O18: an advance leaves the buffer that its instruction's one write leaves, and the fetch
does not change what that write does. -/
theorem anAdvanceStoresOnlyItsInstructionsByte :
    Obligations.AnAdvanceStoresOnlyItsInstructionsByte := by
  intro s t h
  refine ⟨fun a ha => ?stores, fun hnone => ?keeps⟩
  case stores =>
    have hmem : t.mem = (writeByte s a (storeValue (fetchInstr s) (afterFetch s))).mem := by
      rw [step_mem h, storedMem_some ha]
      exact writeByte_mem_congr (s := s) (t := afterFetch s) rfl rfl ..
    exact (writeByte_storedAt s a _).congr ((step_cfg h).trans (writeByte_cfg ..).symm) hmem
  case keeps => exact readByte_congr (step_cfg h) ((step_mem h).trans (storedMem_none hnone))

end Sys2Proof.Machine
end

section
namespace Sys2Proof.Machine

/-! ### What a place of the Memory Map reads as and does with a write (spec/20_memory.md R51) -/

section
variable {s : State} {a : Word}

theorem place_rom_ne_ram {c : Config} {i : Nat} (h : place c a = .rom i) (k : Nat) :
    place c a ≠ .ram k := by
  rw [h]
  exact nofun

theorem place_unmapped_ne_ram {c : Config} (h : place c a = .unmapped) (k : Nat) :
    place c a ≠ .ram k := by
  rw [h]
  exact nofun

theorem writeByte_ram {k : Nat} (h : place s.cfg a = .ram k) (v : Byte) :
    writeByte s a v = { s with mem := ramWrite s.mem k v } := by
  rw [writeByte_eq, writeByte_mem_ram h]

theorem readByte_rom {i : Nat} (h : place s.cfg a = .rom i) :
    readByte s a = (romImage s.cfg).getD i (sentinel s.cfg.variant) := by
  simp [readByte, h]

theorem readByte_unmapped (h : place s.cfg a = .unmapped) :
    readByte s a = sentinel s.cfg.variant := by
  simp [readByte, h]

theorem access_ram {k : Nat} (h : place s.cfg a = .ram k) :
    readByte s a = ramRead s.mem k ∧
      ∀ v, writeByte s a v = { s with mem := ramWrite s.mem k v } :=
  ⟨readByte_ram h, writeByte_ram h⟩

theorem access_rom {image : List Byte} {i : Nat} (h : place s.cfg a = .rom i)
    (himage : romImage s.cfg = image) (hi : i < image.length) :
    readByte s a = image[i] ∧ ∀ v, writeByte s a v = s := by
  subst himage
  exact ⟨(readByte_rom h).trans (List.getD_eq_getElem _ _ hi),
    writeByte_discarded (place_rom_ne_ram h)⟩

theorem access_unmapped (h : place s.cfg a = .unmapped) :
    readByte s a = sentinel s.cfg.variant ∧ ∀ v, writeByte s a v = s :=
  ⟨readByte_unmapped h, writeByte_discarded (place_unmapped_ne_ram h)⟩

end

/-- Settles O15: an unmapped address reads as the variant's sentinel. -/
theorem unmappedReadsGiveTheSentinel : Obligations.UnmappedReadsGiveTheSentinel := by
  intro s a h
  rw [readByte_unmapped h]
  refine ⟨fun hv => ?_, fun hv => ?_, fun hv => ?_⟩ <;> rw [hv] <;> rfl

/-! ### The decoder of each variant (spec/20_memory.md R52 to R54) -/

section
variable {c : Config} {a : Word}

theorem place_of_a (hv : c.variant = .a) : place c a = placeA c a.toNat := by
  simp only [place, hv]

theorem placeA_ram {n : Nat} (h : n < c.ramSize) : placeA c n = .ram n := if_pos h

theorem placeA_rom {j : Nat} (hram : c.ramSize ≤ c.romABase + j) (hj : j < c.romAImage.length) :
    placeA c (c.romABase + j) = .rom j := by
  rw [placeA, if_neg (by omega), if_pos (by omega), Nat.add_sub_cancel_left]

theorem placeA_rom_inv {n j : Nat} (h : placeA c n = .rom j) :
    n = c.romABase + j ∧ j < c.romAImage.length := by
  unfold placeA at h
  split at h
  · cases h
  · split at h <;> cases h
    omega

theorem placeA_unmapped {n : Nat} (hram : c.ramSize ≤ n)
    (hwindow : n < c.romABase ∨ c.romABase + c.romAImage.length ≤ n) :
    placeA c n = .unmapped := by
  rw [placeA, if_neg (by omega), if_neg (by omega)]

/-- The bounded search finds the least covering exponent (R53). -/
theorem coverExponent_eq {size k : Nat} (hsize : size ≤ 65536)
    (hk : ∀ j : Nat, size ≤ 2 ^ j ↔ k ≤ j) : coverExponent size = k := by
  have hk16 : k ≤ 16 := (hk 16).mp hsize
  have hfind : (List.range 17).find? (fun j => decide (size ≤ 2 ^ j)) = some k := by
    refine List.find?_range_eq_some.mpr ⟨?_, List.mem_range.mpr (by omega), fun j hj => ?_⟩
    · simpa using (hk k).mpr (le_refl k)
    · simpa [hk] using hj
  rw [coverExponent, hfind, Option.getD_some]

/-- Masking is the remainder modulo the covering power of two (R53). -/
theorem and_maskB {size k : Nat} (hsize : size ≤ 65536)
    (hk : ∀ j : Nat, size ≤ 2 ^ j ↔ k ≤ j) (n : Nat) : n &&& maskB size = n % 2 ^ k := by
  rw [maskB, coverExponent_eq hsize hk, Nat.and_two_pow_sub_one_eq_mod]

theorem place_of_b {k : Nat} (hv : c.variant = .b) (hsize : c.ramSize ≤ 65536)
    (hk : ∀ j : Nat, c.ramSize ≤ 2 ^ j ↔ k ≤ j) : place c a = placeB c (a.toNat % 2 ^ k) := by
  simp only [place, hv, and_maskB hsize hk]

/-- Variant B has no image (R53). -/
theorem place_ne_rom_of_b (hv : c.variant = .b) (i : Nat) : place c a ≠ .rom i := by
  intro h
  simp only [place, hv, placeB] at h
  split at h <;> cases h

theorem place_of_c (hv : c.variant = .c) : place c a = placeC c (a.toNat % 4096) := by
  have hmask : a.toNat &&& 0x0FFF = a.toNat % 4096 := Nat.and_two_pow_sub_one_eq_mod a.toNat 12
  simp only [place, hv, hmask]

theorem placeC_rom {n : Nat} (h : n < c.romCImage.length) : placeC c n = .rom n := if_pos h

theorem placeC_ram {j : Nat} (hj : j < 512) : placeC c (c.romCImage.length + j) = .ram j := by
  rw [placeC, if_neg (by omega), if_pos (by rw [ramWindowC]; omega), Nat.add_sub_cancel_left]

theorem placeC_unmapped {n : Nat} (h : c.romCImage.length + 512 ≤ n) : placeC c n = .unmapped := by
  rw [placeC, if_neg (by omega), if_neg (by rw [ramWindowC]; omega)]

theorem romImage_of_a (hv : c.variant = .a) : romImage c = c.romAImage := by
  simp only [romImage, hv]

theorem romImage_of_c (hv : c.variant = .c) : romImage c = c.romCImage := by
  simp only [romImage, hv]

end

/-- Settles O12: the three ranges of Variant A's decoder, each with what its place answers. -/
theorem variantAReadsRamImageOrZero : Obligations.VariantAReadsRamImageOrZero := by
  intro s a hv
  have hplace : place s.cfg a = placeA s.cfg a.toNat := place_of_a hv
  refine ⟨fun hram => ?ram, fun j hj hram ha => ?rom, fun hram hwindow => ?unmapped⟩
  case ram => exact access_ram (hplace.trans (placeA_ram hram))
  case rom =>
    rw [ha] at hplace hram
    exact access_rom (hplace.trans (placeA_rom hram hj)) (romImage_of_a hv) hj
  case unmapped =>
    simpa only [hv, sentinel] using access_unmapped (hplace.trans (placeA_unmapped hram hwindow))

/-- Settles O13: the mask is the remainder modulo the least covering power of two, and the remainder
is inside the buffer or unmapped. -/
theorem variantBReadsRamUnderItsMask : Obligations.VariantBReadsRamUnderItsMask := by
  intro s a k hv hsize hk
  have hplace : place s.cfg a = placeB s.cfg (a.toNat % 2 ^ k) := place_of_b hv hsize hk
  refine ⟨fun hram => ?ram, fun hout => ?unmapped⟩
  case ram => exact access_ram (hplace.trans (if_pos hram))
  case unmapped =>
    simpa only [hv, sentinel] using access_unmapped (hplace.trans (if_neg (Nat.not_lt.mpr hout)))

/-- Settles O14: the three ranges of Variant C's window, each with what its place answers. -/
theorem variantCReadsItsWindow : Obligations.VariantCReadsItsWindow := by
  intro s a hv
  have hplace : place s.cfg a = placeC s.cfg (a.toNat % 4096) := place_of_c hv
  refine ⟨fun hrom => ?rom, fun j hj ha => ?ram, fun hout => ?unmapped⟩
  case rom => exact access_rom (hplace.trans (placeC_rom hrom)) (romImage_of_c hv) hrom
  case ram =>
    rw [ha] at hplace
    exact access_ram (hplace.trans (placeC_ram hj))
  case unmapped =>
    simpa only [hv, sentinel] using access_unmapped (hplace.trans (placeC_unmapped hout))

/-! ### Read after write (spec/20_memory.md R57) -/

section
variable {s : State} {a b : Word} {k : Nat}

theorem readByte_writeByte_samePlace (ha : place s.cfg a = .ram k) (hb : place s.cfg b = .ram k)
    (v : Byte) : readByte (writeByte s a v) b = v :=
  (writeByte_storedAt s a v).1 b k ha hb

theorem readByte_writeByte_other (h : ∀ k, place s.cfg a = .ram k → place s.cfg b ≠ .ram k)
    (v : Byte) : readByte (writeByte s a v) b = readByte s b :=
  (writeByte_storedAt s a v).2 b h

/-- A RAM byte keeps its value through a write to any other place. -/
theorem readByte_writeByte_writeByte (ha : place s.cfg a = .ram k) (hb : place s.cfg b ≠ .ram k)
    (v w : Byte) : readByte (writeByte (writeByte s a v) b w) a = v := by
  have hother : ∀ j, place (writeByte s a v).cfg b = .ram j →
      place (writeByte s a v).cfg a ≠ .ram j := by
    rw [writeByte_cfg]
    exact fun j hj haj => hb (by rw [hj, ← haj, ha])
  rw [readByte_writeByte_other hother, readByte_writeByte_samePlace ha ha]

end

/-- Settles O16: a write sets one buffer byte, seen at all its addresses and at no other. -/
theorem ramReadsBackWhatWasWritten : Obligations.RamReadsBackWhatWasWritten := by
  refine fun s a v => ⟨fun k ha => ?ram, fun hnone => writeByte_discarded hnone v, ?frame⟩
  case ram =>
    have hother : ∀ b, place s.cfg b ≠ .ram k → ∀ j, place s.cfg a = .ram j →
        place s.cfg b ≠ .ram j := fun b hb j haj hbj => hb (by rw [hbj, ← haj, ha])
    exact ⟨readByte_writeByte_samePlace ha ha v, fun b hb => readByte_writeByte_samePlace ha hb v,
      fun b hb => readByte_writeByte_other (hother b hb) v,
      fun b w hb => readByte_writeByte_writeByte ha hb v w⟩
  case frame => rw [writeByte_eq]

/-! ### The read-only images (spec/20_memory.md R56) -/

theorem variant_cases (v : Variant) : v = .a ∨ v = .b ∨ v = .c := by
  cases v <;> simp

/-- An accepted buffer does not reach into the image: R7 keeps RAM below Variant A's window, and
Variant C's window does not depend on the buffer. -/
theorem place_rom_of_rebind {c : Config} {a : Word} {i n : Nat} (h : place c a = .rom i)
    (hwf : configWf { c with ramSize := n }) : place { c with ramSize := n } a = .rom i := by
  obtain ⟨-, -, hwindow, -⟩ := hwf
  rcases variant_cases c.variant with hv | hv | hv
  case inl =>
    have hbelow : n ≤ c.romABase := (hwindow hv).2
    obtain ⟨ha, hi⟩ := placeA_rom_inv ((place_of_a hv).symm.trans h)
    refine (place_of_a (c := { c with ramSize := n }) hv).trans ?_
    rw [ha]
    exact placeA_rom (c := { c with ramSize := n }) (Nat.le_add_right_of_le hbelow) hi
  case inr.inl => exact absurd h (place_ne_rom_of_b hv i)
  case inr.inr =>
    exact (place_of_c (c := { c with ramSize := n }) hv).trans ((place_of_c hv).symm.trans h)

theorem readByte_bindRam_rom {s : State} {a : Word} {i : Nat} {bytes : List Byte}
    (h : place s.cfg a = .rom i) (hwf : configWf (bindRam bytes s).cfg) :
    readByte (bindRam bytes s) a = readByte s a := by
  rw [readByte_rom h, readByte_rom (s := bindRam bytes s) (place_rom_of_rebind h hwf)]
  rfl

/-- Settles O17: what an image address reads as depends on the parameters alone; only a reset with a
buffer changes one of them, and not where the image is. -/
theorem readOnlyImagesAreConstant : Obligations.ReadOnlyImagesAreConstant := by
  intro s t a i h
  have hsame : ∀ u : State, u.cfg = s.cfg → readByte u a = readByte s a :=
    fun u hcfg => readByte_no_ram hcfg (place_rom_ne_ram h)
  refine ⟨fun b v => hsame _ (writeByte_cfg ..), fun hstep => hsame t (step_cfg hstep),
    fun b data => hsame _ (loadBytes_cfg ..), fun draws hreset => ?kept,
    fun draws bytes hreset => ?rebound⟩
  case kept =>
    obtain ⟨-, rfl⟩ := resetOp_next hreset
    exact hsame _ rfl
  case rebound =>
    obtain ⟨hwf, rfl⟩ := resetOp_next hreset
    have hbound : readByte (resetState draws (bindRam bytes s)) a = readByte (bindRam bytes s) a :=
      readByte_congr rfl rfl a
    exact ⟨rfl, rfl, hbound.trans (readByte_bindRam_rom h hwf)⟩

end Sys2Proof.Machine
end

section
namespace Sys2Proof

/-! ### The opcode byte from its group and its field (spec/30_encoding.md R91, R92) -/

theorem opByte_toNat (group field : BitVec 4) :
    (opByte group field).toNat = group.toNat * 16 + field.toNat := by
  have := field.isLt
  simp only [opByte, BitVec.toNat_append]
  rw [← Nat.shiftLeft_add_eq_or_of_lt this, Nat.shiftLeft_eq]

@[simp] theorem groupOf_opByte (group field : BitVec 4) : groupOf (opByte group field) = group := by
  apply BitVec.eq_of_toNat_eq
  have := field.isLt
  rw [groupOf_toNat, opByte_toNat]
  omega

@[simp] theorem fieldOf_opByte (group field : BitVec 4) : fieldOf (opByte group field) = field := by
  apply BitVec.eq_of_toNat_eq
  have := field.isLt
  rw [fieldOf_toNat, opByte_toNat]
  omega

/-! ### The round trip (spec/30_encoding.md R92 to R97) -/

/-- The five bits in front of the port tell OUT from INP, and port 0 from both (R98). -/
theorem decodeOp_io (port : Port) (h : port ≠ 0) :
    decodeOp (0b01100#5 ++ port) 0 0 = .out port ∧
      decodeOp (0b01101#5 ++ port) 0 0 = .inp port := by
  revert port
  decide

/-- The decoder undoes the encoder, opcode by opcode; an operand byte that the instruction does not
have is taken as 0. -/
theorem decodeOp_encode {i : Instr} (hi : i.WellFormed = true) :
    decodeOp ((encode i).getD 0 0) ((encode i).getD 1 0) ((encode i).getD 2 0) = i := by
  cases i <;> simp only [encode, List.getD_cons_zero, List.getD_cons_succ, List.getD_nil]
  case ldn n => simpa [decodeOp, Instr.WellFormed] using hi
  case out port => exact (decodeOp_io port (by simpa [Instr.WellFormed] using hi)).1
  case inp port => exact (decodeOp_io port (by simpa [Instr.WellFormed] using hi)).2
  case inc | dec | lda | str | glo | ghi | plo | phi | sep | sex => simp [decodeOp]
  case lbr t | lbq t | lbz t | lbdf t | lbnq t | lbnz t | lbnf t =>
    conv_rhs => rw [← joinBytes_hiByte_loByte t]
    rfl
  all_goals rfl

/-- The bytes determine the instruction. -/
theorem encode_injective {i j : Instr} (hi : i.WellFormed = true) (hj : j.WellFormed = true)
    (h : encode i = encode j) : i = j := by
  rw [← decodeOp_encode hi, h, decodeOp_encode hj]

theorem take_opcodeLength (op b1 b2 : Byte) :
    ∃ operands, [op, b1, b2].take (opcodeLength op) = op :: operands ∧
      (op :: operands).length = opcodeLength op := by
  rcases opcodeLength_cases op with e | e | e <;> simp [e]

/-- An instruction's bytes are as many as its opcode byte announces (R90). -/
theorem encode_eq_cons {i : Instr} (hi : i.WellFormed = true) :
    ∃ op operands, encode i = op :: operands ∧ (op :: operands).length = opcodeLength op := by
  obtain ⟨operands, htake, hlength⟩ :=
    take_opcodeLength ((encode i).getD 0 0) ((encode i).getD 1 0) ((encode i).getD 2 0)
  rw [← encode_decodeOp, decodeOp_encode hi] at htake
  exact ⟨_, operands, htake, hlength⟩

/-- On a list that holds its whole instruction the decoder cuts the list after the opcode's length:
the instruction has the bytes before the cut, the answer the bytes after it (R90). -/
theorem decode_of_length_le {op : Byte} {rest : List Byte} (h : opcodeLength op ≤ 1 + rest.length) :
    ∃ i, decode (op :: rest) = .ok (i, (op :: rest).drop (opcodeLength op)) ∧
      i.WellFormed = true ∧ encode i = (op :: rest).take (opcodeLength op) := by
  rcases decode_cases op rest with
    ⟨e, hd⟩ | ⟨b1, rest, e, rfl, hd⟩ | ⟨b1, b2, rest, e, rfl, hd⟩ | ⟨hshort, -⟩
  case inr.inr.inr => omega
  all_goals
    refine ⟨_, by simpa [e] using hd, decodeOp_wellFormed .., ?_⟩
    rw [encode_decodeOp]
    simp [e]

theorem decode_of_length_lt {op : Byte} {rest : List Byte} (h : 1 + rest.length < opcodeLength op) :
    decode (op :: rest) = .error (.truncated op) := by
  rcases decode_cases op rest with
    ⟨e, -⟩ | ⟨b1, rest, e, rfl, -⟩ | ⟨b1, b2, rest, e, rfl, -⟩ | ⟨-, hd⟩
  case inr.inr.inr => exact hd
  all_goals
    simp only [e, List.length_cons] at h
    omega

/-- Settles O1: the decoder cuts after the instruction's bytes, and these determine it. -/
theorem decodeInvertsEncode : Obligations.DecodeInvertsEncode := by
  intro i rest hi
  obtain ⟨op, operands, hencode, hlength⟩ := encode_eq_cons hi
  have hwhole : opcodeLength op ≤ 1 + (operands ++ rest).length := by
    simp only [← hlength, List.length_cons, List.length_append]
    omega
  obtain ⟨j, hdecode, hj, hbytes⟩ := decode_of_length_le hwhole
  rw [← List.cons_append, ← hlength, List.take_left, ← hencode] at hbytes
  rw [← List.cons_append, ← hlength, List.drop_left, encode_injective hj hi hbytes] at hdecode
  rw [hencode, hdecode]

/-- Settles O2: the bytes before the cut and the bytes after it are the whole list. -/
theorem encodeInvertsDecode : Obligations.EncodeInvertsDecode := by
  intro bytes i rest h
  cases bytes with
  | nil => cases h
  | cons op tail =>
    by_cases hlength : opcodeLength op ≤ 1 + tail.length
    case pos =>
      obtain ⟨j, hdecode, hj, hbytes⟩ := decode_of_length_le hlength
      rw [hdecode] at h
      cases h
      exact ⟨hj, by rw [hbytes, List.take_append_drop]⟩
    case neg =>
      rw [decode_of_length_lt (Nat.lt_of_not_le hlength)] at h
      cases h

/-- Settles O3: enough bytes are cut after the opcode's length, too few are refused. -/
theorem opcodeByteDecidesTheLength : Obligations.OpcodeByteDecidesTheLength := by
  refine ⟨fun op => ?range, fun op rest h => ?whole, fun op rest h => decode_of_length_lt h, rfl⟩
  case range => rcases opcodeLength_cases op with e | e | e <;> simp [e]
  case whole =>
    obtain ⟨i, hdecode, -, hbytes⟩ := decode_of_length_le h
    refine ⟨i, hdecode, ?_⟩
    rw [hbytes, List.length_take, List.length_cons]
    omega

/-! ### Groups 0x0 and 0x6 (spec/30_encoding.md R98, R99) -/

/-- One opcode byte, and no other, decodes to a given instruction of one byte. -/
theorem decodeOp_eq_iff {i : Instr} {op' : Byte} (hencode : encode i = [op']) (op b1 b2 : Byte) :
    decodeOp op b1 b2 = i ↔ op = op' ∧ i.WellFormed = true := by
  obtain ⟨operands, htake, -⟩ := take_opcodeLength op b1 b2
  constructor
  case mp =>
    rintro rfl
    rw [encode_decodeOp, htake] at hencode
    exact ⟨List.head_eq_of_cons_eq hencode, decodeOp_wellFormed op b1 b2⟩
  case mpr =>
    rintro ⟨rfl, hi⟩
    obtain ⟨op', operands', hcons, hlength⟩ := encode_eq_cons hi
    obtain ⟨rfl, rfl⟩ := List.cons_eq_cons.mp (hencode.symm.trans hcons)
    refine encode_injective (decodeOp_wellFormed op b1 b2) hi ?_
    rw [encode_decodeOp, ← hlength, hencode]
    rfl

theorem out_toNat (port : Port) : (0b01100#5 ++ port : Byte).toNat = 0x60 + port.toNat := by
  revert port
  decide

theorem inp_toNat (port : Port) : (0b01101#5 ++ port : Byte).toNat = 0x68 + port.toNat := by
  revert port
  decide

/-- Settles O4: each of these instructions has one byte, so its encoding is its row of the map. -/
theorem groupsZeroAndSixDecode : Obligations.GroupsZeroAndSixDecode := by
  intro op b1 b2
  refine ⟨?idl, fun n => ?ldn, ?irx, fun port => ?out, ?unassigned68, fun port => ?inp⟩
  case idl | irx | unassigned68 => exact (decodeOp_eq_iff rfl op b1 b2).trans (and_iff_left rfl)
  case ldn =>
    rw [decodeOp_eq_iff rfl, ← BitVec.toNat_inj, opByte_toNat]
    simp [Instr.WellFormed]
  case out =>
    rw [decodeOp_eq_iff rfl, ← BitVec.toNat_inj, out_toNat]
    simp [Instr.WellFormed]
  case inp =>
    rw [decodeOp_eq_iff rfl, ← BitVec.toNat_inj, inp_toNat]
    simp [Instr.WellFormed]

/-- Settles O5: the words are the encodings of their instructions. -/
theorem someWordsDecodeAsTheMapSays : Obligations.SomeWordsDecodeAsTheMapSays := by
  have hword : ∀ i : Instr, i.WellFormed = true → decode (encode i) = .ok (i, []) := fun i hi => by
    simpa using decodeInvertsEncode i [] hi
  exact ⟨hword .idl rfl, hword (.ldn 15) rfl, hword (.bnz 0x04) rfl, hword (.out 7) rfl,
    hword (.inp 1) rfl, hword (.adci 0x01) rfl, hword (.lbr 0x1234) rfl, hword (.sep 10) rfl,
    hword (.ldi 0x7F) rfl, hword .shl rfl⟩

end Sys2Proof
end

section
namespace Sys2Proof.Machine

/-! ### The advance (spec/30_encoding.md R95, spec/60_exceptions.md R310) -/

/-- Settles O7: well-formed parameters are not refused, and every execute phase answers. -/
theorem everyAdvanceEndsInANextState : Obligations.EveryAdvanceEndsInANextState :=
  fun _ => step_isNext

/-- What the decoder reads from the three bytes at the program counter is what is fetched. -/
theorem fetchInstr_of_decode {s : State} {i : Instr} {rest : List Byte}
    (h : decode [readByte s (pc s), readByte s (pc s + 1), readByte s (pc s + 2)] = .ok (i, rest)) :
    fetchInstr s = i := by
  have hlength : opcodeLength (readByte s (pc s)) ≤
      1 + [readByte s (pc s + 1), readByte s (pc s + 2)].length :=
    (opcodeByteDecidesTheLength.1 _).2
  obtain ⟨j, hdecode, hj, hbytes⟩ := decode_of_length_le hlength
  rw [hdecode] at h
  cases h
  exact encode_injective (decodeOp_wellFormed ..) hj ((encode_decodeOp ..).trans hbytes.symm)

/-- Settles O6: the fetched instruction is the decoded one, and its execute phase answers. -/
theorem stepRunsTheDecodedInstruction : Obligations.StepRunsTheDecodedInstruction := by
  intro s i rest hwf hdecode
  obtain ⟨t, ht⟩ := exec_isNext i (afterFetch s)
  refine ⟨(encodeInvertsDecode _ i rest hdecode).1, t, ht, ?_⟩
  rw [step_of_wf hwf, fetchInstr_of_decode hdecode, ht]

end Sys2Proof.Machine
end

section
namespace Sys2Proof.Machine

/-! ### Stores (spec/40_memory_reference.md R125, R126, spec/45_control.md R255) -/

section
variable (s : State) (a : Word) (v : Byte) (n : RegNum)

@[simp] theorem getReg_writeByte : getReg (writeByte s a v) n = getReg s n :=
  getReg_congr (writeByte_regs ..) n

/-- A store without a register step changes memory only, at its own address. -/
theorem writeByte_frame :
    StoredAt s (writeByte s a v) a v ∧
      writeByte s a v = { s with mem := (writeByte s a v).mem } :=
  ⟨writeByte_storedAt .., writeByte_eq ..⟩

/-- The step of a register after a store reaches neither the stored byte nor another register. -/
theorem decReg_writeByte_frame :
    StoredAt s (decReg (writeByte s a v) n) a v ∧
      getReg (decReg (writeByte s a v) n) n = getReg s n - 1 ∧
      OtherRegsKept s (decReg (writeByte s a v) n) n ∧
      decReg (writeByte s a v) n =
        { s with mem := (decReg (writeByte s a v) n).mem
                 regs := (decReg (writeByte s a v) n).regs } := by
  refine ⟨?stored, ?stepped, fun m hm => ?kept, ?frame⟩
  case stored => exact (writeByte_storedAt s a v).congr (decReg_cfg ..) (decReg_mem ..)
  case stepped => rw [getReg_decReg_same, getReg_writeByte]
  case kept => rw [getReg_decReg_other _ _ _ hm, getReg_writeByte]
  case frame =>
    rw [writeByte_eq]
    rfl

end

/-- Settles O21: STR and SAV are one write; STXD is one write and then a count down of R[X]. -/
theorem storesWriteOneByte : Obligations.StoresWriteOneByte := fun s n =>
  ⟨⟨writeByte s (getReg s n) s.d, rfl, writeByte_frame ..⟩,
    ⟨decReg (writeByte s (getReg s s.x) s.d) s.x, rfl, decReg_writeByte_frame ..⟩,
    ⟨writeByte s (getReg s s.x) s.t, rfl, writeByte_frame ..⟩⟩

/-! ### Loads (spec/40_memory_reference.md R120 to R124) -/

section
variable (s : State) (n : RegNum) (v : Byte)

theorem loadD_sameMemory : SameMemory s { s with d := v } := readByte_congr rfl rfl

/-- A load that moves a register past its byte changes D and that register only. -/
theorem incReg_loadD_frame :
    getReg (incReg { s with d := v } n) n = getReg s n + 1 ∧
      OtherRegsKept s (incReg { s with d := v } n) n ∧
      incReg { s with d := v } n =
        { s with d := v, regs := (incReg { s with d := v } n).regs } ∧
      SameMemory s (incReg { s with d := v } n) :=
  ⟨getReg_incReg_same .., fun m hm => getReg_incReg_other _ n m hm, rfl, readByte_congr rfl rfl⟩

/-- Moving past the operand byte is counting R[P] up (R93). -/
theorem skipOperand_eq_incReg : skipOperand s = incReg s s.p := rfl

theorem exec_ldi : exec (.ldi v) s = .next (incReg { s with d := v } s.p) :=
  congrArg Host.Outcome.next (skipOperand_eq_incReg { s with d := v })

theorem exec_lda_p : exec (.lda s.p) s = exec (.ldi (readByte s (pc s))) s := rfl

theorem exec_ldn_x : exec (.ldn s.x) s = exec .ldx s := rfl

theorem exec_lda_x : exec (.lda s.x) s = exec .ldxa s := rfl

theorem exec_ldxa_of_x_eq_p (h : s.x = s.p) :
    exec .ldxa s = exec (.ldi (readByte s (pc s))) s := by
  rw [← exec_lda_x, h, exec_lda_p]

end

/-- Settles O20: every load writes D; LDA, LDXA and LDI then count up R[N], R[X] and R[P]. -/
theorem loadsPutOneByteInD : Obligations.LoadsPutOneByteInD := by
  intro s n imm
  refine ⟨?ldn, ?lda, ?ldx, ?ldxa, ?ldi, exec_lda_p s, exec_ldxa_of_x_eq_p s, exec_ldn_x s,
    exec_lda_x s⟩
  case ldn => exact ⟨_, rfl, rfl, rfl, loadD_sameMemory s (readByte s (getReg s n))⟩
  case lda => exact ⟨_, rfl, rfl, incReg_loadD_frame s n (readByte s (getReg s n))⟩
  case ldx => exact ⟨_, rfl, rfl, rfl, loadD_sameMemory s (readByte s (getReg s s.x))⟩
  case ldxa => exact ⟨_, rfl, rfl, incReg_loadD_frame s s.x (readByte s (getReg s s.x))⟩
  case ldi => exact ⟨_, exec_ldi s imm, rfl, incReg_loadD_frame s s.p imm⟩

end Sys2Proof.Machine
end

section
namespace Sys2Proof.Machine

/-! ### Register bytes (spec/41_register_operations.md R143 to R146) -/

section
variable (s : State) (n : RegNum) (b : Byte)

theorem getReg_replaceLoByte_toNat :
    (getReg (setReg s n (joinBytes (hiByte (getReg s n)) b)) n).toNat =
      (getReg s n).toNat / 256 * 256 + b.toNat := by
  rw [getReg_setReg_same, joinBytes_toNat, hiByte_toNat]

theorem getReg_replaceHiByte_toNat :
    (getReg (setReg s n (joinBytes b (loByte (getReg s n)))) n).toNat =
      b.toNat * 256 + (getReg s n).toNat % 256 := by
  rw [getReg_setReg_same, joinBytes_toNat, loByte_toNat]

end

/-- Settles O23: GLO and GHI write only D; PLO and PHI write only R[N], its other byte joined to D. -/
theorem registerBytesMoveThroughD : Obligations.RegisterBytesMoveThroughD := by
  intro s n
  refine ⟨?glo, ?ghi, ?plo, ?phi⟩
  case glo => exact ⟨_, rfl, loByte_toNat (getReg s n), rfl, loadD_sameMemory s _⟩
  case ghi => exact ⟨_, rfl, hiByte_toNat (getReg s n), rfl, loadD_sameMemory s _⟩
  case plo => exact ⟨_, rfl, getReg_replaceLoByte_toNat s n s.d, setReg_frame s n _⟩
  case phi => exact ⟨_, rfl, getReg_replaceHiByte_toNat s n s.d, setReg_frame s n _⟩

end Sys2Proof.Machine
end

section
namespace Sys2Proof.Machine

/-! ### Logic (spec/42_logic.md R160 to R165) -/

section
variable {s : State} {i : Instr} {v : Byte} {bits : Nat → Bool}

/-- A result put in D, and nothing else. -/
theorem exec_setD_bits (hi : exec i s = .next { s with d := v }) (hv : ∀ j, v.getLsbD j = bits j) :
    ∃ t, exec i s = .next t ∧ t = { s with d := t.d } ∧ SameMemory s t ∧
      ∀ j, t.d.getLsbD j = bits j :=
  ⟨_, hi, rfl, loadD_sameMemory s v, hv⟩

/-- A result put in D, and R[P] moved past the operand byte (R93). -/
theorem exec_setD_skipOperand_bits (hi : exec i s = .next (skipOperand { s with d := v }))
    (hv : ∀ j, v.getLsbD j = bits j) :
    ∃ t, exec i s = .next t ∧ pc t = pc s + 1 ∧ OtherRegsKept s t s.p ∧
      t = { s with d := t.d, regs := t.regs } ∧ SameMemory s t ∧
      ∀ j, t.d.getLsbD j = bits j := by
  obtain ⟨hpc, hregs, hframe, hmem⟩ := incReg_loadD_frame s s.p v
  exact ⟨_, hi, hpc, hregs, hframe, hmem, hv⟩

end

/-- Settles O24: each instruction puts one bitwise operation on the operand and D in D. -/
theorem logicIsBitwise : Obligations.LogicIsBitwise := by
  intro s imm
  refine ⟨?or, ?xor, ?and, ?ori, ?xri, ?ani⟩
  case or => exact exec_setD_bits rfl fun _ => BitVec.getLsbD_or
  case xor => exact exec_setD_bits rfl fun _ => BitVec.getLsbD_xor
  case and => exact exec_setD_bits rfl fun _ => BitVec.getLsbD_and
  case ori => exact exec_setD_skipOperand_bits rfl fun _ => BitVec.getLsbD_or
  case xri => exact exec_setD_skipOperand_bits rfl fun _ => BitVec.getLsbD_xor
  case ani => exact exec_setD_skipOperand_bits rfl fun _ => BitVec.getLsbD_and

/-! ### Shifts in integers (spec/42_logic.md R170 to R174) -/

section
variable (d : Byte) (c : Bool)

theorem shiftRight_toNat : (shiftRight d c).1.toNat = 128 * c.toNat + d.toNat / 2 := by
  have hd : d.toNat / 2 < 2 ^ 7 := by have := d.isLt; omega
  have hin : ((BitVec.ofBool c).zeroExtend 8 <<< 7 : Byte).toNat = c.toNat <<< 7 := by
    cases c <;> rfl
  rw [shiftRight, BitVec.toNat_or, hin, BitVec.toNat_ushiftRight, Nat.shiftRight_eq_div_pow,
    pow_one, ← Nat.shiftLeft_add_eq_or_of_lt hd, Nat.shiftLeft_eq, Nat.mul_comm]

theorem shiftRight_df : (shiftRight d c).2 = decide (d.toNat % 2 = 1) :=
  Nat.testBit_zero d.toNat

theorem shiftLeft_toNat : (shiftLeft d c).1.toNat = 2 * d.toNat % 256 + c.toNat := by
  have hin : ((BitVec.ofBool c).zeroExtend 8 : Byte).toNat = c.toNat := by cases c <;> rfl
  have hc : c.toNat < 2 ^ 1 := c.toNat_lt
  have hd : (d <<< 1).toNat = (d.toNat % 128) <<< 1 := by
    rw [BitVec.toNat_shiftLeft, Nat.shiftLeft_eq, Nat.shiftLeft_eq]
    omega
  rw [shiftLeft, BitVec.toNat_or, hin, hd, ← Nat.shiftLeft_add_eq_or_of_lt hc, Nat.shiftLeft_eq]
  omega

theorem shiftLeft_df : (shiftLeft d c).2 = decide (128 ≤ d.toNat) :=
  BitVec.msb_eq_decide d

end

/-- A result written to D and DF changes nothing else. -/
theorem setResult_frame (s : State) (r : Byte × Bool) :
    setResult s r = { s with d := r.1, df := r.2 } ∧ SameMemory s (setResult s r) :=
  ⟨rfl, readByte_congr rfl rfl⟩

/-- Settles O25: each shift is `shiftRight` or `shiftLeft` of D with a 0 or DF coming in. -/
theorem shiftsMoveOneBitThroughDF : Obligations.ShiftsMoveOneBitThroughDF := by
  intro s
  refine ⟨?shr, ?shrc, ?shl, ?shlc⟩
  case shr =>
    have hd : (shiftRight s.d false).1.toNat = s.d.toNat / 2 := by simp [shiftRight_toNat]
    exact ⟨_, rfl, hd, shiftRight_df s.d false, setResult_frame ..⟩
  case shrc => exact ⟨_, rfl, shiftRight_toNat .., shiftRight_df s.d s.df, setResult_frame ..⟩
  case shl => exact ⟨_, rfl, shiftLeft_toNat .., shiftLeft_df s.d false, setResult_frame ..⟩
  case shlc => exact ⟨_, rfl, shiftLeft_toNat .., shiftLeft_df s.d s.df, setResult_frame ..⟩

/-! ### The ring of D and DF (spec/42_logic.md R170, R172, R174) -/

/-- The ring's bits, counted modulo 9: bits 0 to 7 are D and bit 8 is DF. -/
def ringBit (r : Byte × Bool) (j : Fin 9) : Bool := (BitVec.cons r.2 r.1).getLsb j

theorem ringBit_df (r : Byte × Bool) : ringBit r 8 = r.2 := by
  simp [ringBit, BitVec.getElem_cons]

theorem ringBit_d (r : Byte × Bool) (j : Fin 8) : ringBit r j.castSucc = r.1.getLsb j := by
  simp [ringBit, BitVec.getElem_cons, Nat.ne_of_lt j.isLt]

theorem ringBit_injective : Function.Injective ringBit := by
  intro r r' h
  have hd : r.1 = r'.1 := BitVec.eq_of_getElem_eq fun j hj => by
    have hj := congrFun h (Fin.castSucc ⟨j, hj⟩)
    rwa [ringBit_d, ringBit_d] at hj
  have hdf : r.2 = r'.2 := by rw [← ringBit_df, h, ringBit_df]
  exact Prod.ext hd hdf

/-- `f` turns the ring: bit `j` comes from `m` places above, modulo 9. -/
def Turns (f : Byte × Bool → Byte × Bool) (m : Fin 9) : Prop :=
  ∀ r j, ringBit (f r) j = ringBit r (j + m)

theorem turns_shiftRight : Turns (fun r => shiftRight r.1 r.2) 1 := by
  rintro ⟨d, c⟩ j
  fin_cases j <;> simp [ringBit, shiftRight, BitVec.getElem_cons]

/-- One place up is eight places down, modulo 9. -/
theorem turns_shiftLeft : Turns (fun r => shiftLeft r.1 r.2) 8 := by
  rintro ⟨d, c⟩ j
  fin_cases j <;> simp [ringBit, shiftLeft, BitVec.getElem_cons]

theorem Turns.iterate {f : Byte × Bool → Byte × Bool} {m : Fin 9} (hf : Turns f m) (k : Nat) :
    Turns f^[k] (k • m) := by
  induction k with
  | zero => intro r j; simp
  | succ k ih =>
    intro r j
    rw [Function.iterate_succ_apply', hf, ih, add_assoc, succ_nsmul']

/-- `i` puts `f` of the ring in the ring and changes nothing else. -/
def ActsOnRing (i : Instr) (f : Byte × Bool → Byte × Bool) : Prop :=
  ∀ s, exec i s = .next (setResult s (f (s.d, s.df)))

theorem actsOnRing_shrc : ActsOnRing .shrc (fun r => shiftRight r.1 r.2) := fun _ => rfl

theorem actsOnRing_shlc : ActsOnRing .shlc (fun r => shiftLeft r.1 r.2) := fun _ => rfl

section
variable {i : Instr} {f : Byte × Bool → Byte × Bool} {m : Fin 9}

theorem execTimes_of_actsOnRing (hi : ActsOnRing i f) (k : Nat) (s : State) :
    execTimes i k s = .next (setResult s (f^[k] (s.d, s.df))) := by
  induction k generalizing s with
  | zero => rfl
  | succ k ih =>
    simp only [execTimes, hi s, ih]
    rfl

/-- Where the whole turn is a multiple of 9, every bit is back in its place. -/
theorem execTimes_restores (hi : ActsOnRing i f) (hf : Turns f m) {k : Nat} (hk : k • m = 0)
    (s : State) : execTimes i k s = .next s := by
  have hring : f^[k] (s.d, s.df) = (s.d, s.df) := ringBit_injective <| funext fun j => by
    rw [hf.iterate k, hk, add_zero]
  rw [execTimes_of_actsOnRing hi, hring]
  rfl

/-- DF set over a zero D: the one set bit of the ring shows every turn that is no multiple of 9. -/
def onlyDF : State := { State.reset with d := 0, df := true }

theorem ringBit_onlyDF (j : Fin 9) : ringBit (onlyDF.d, onlyDF.df) j = decide (j = 8) := by
  revert j
  decide

theorem execTimes_onlyDF_ne (hi : ActsOnRing i f) (hf : Turns f m) {k : Nat} (hk : k • m ≠ 0) :
    execTimes i k onlyDF ≠ .next onlyDF := by
  rw [execTimes_of_actsOnRing hi]
  intro h
  injection h with h
  have hdf : ringBit (f^[k] (onlyDF.d, onlyDF.df)) 8 = true :=
    (ringBit_df _).trans (congrArg State.df h)
  rw [hf.iterate k, ringBit_onlyDF, decide_eq_true_iff, add_eq_left] at hdf
  exact hk hdf

end

/-- Settles O26: a turn by `k` places, up or down, moves no bit of the ring exactly when 9 divides
`k`. -/
theorem nineRingShiftsRestoreTheState : Obligations.NineRingShiftsRestoreTheState := by
  refine ⟨fun s => ⟨?shrc, ?shlc⟩, fun k hpos hlt => ⟨onlyDF, ?_⟩⟩
  case shrc => exact execTimes_restores actsOnRing_shrc turns_shiftRight (by decide) s
  case shlc => exact execTimes_restores actsOnRing_shlc turns_shiftLeft (by decide) s
  have hturn : k • (1 : Fin 9) ≠ 0 ∧ k • (8 : Fin 9) ≠ 0 := by
    interval_cases k <;> decide
  exact ⟨execTimes_onlyDF_ne actsOnRing_shrc turns_shiftRight hturn.1,
    execTimes_onlyDF_ne actsOnRing_shlc turns_shiftLeft hturn.2⟩

end Sys2Proof.Machine
end

section
namespace Sys2Proof.Machine

/-! ### The arithmetic laws in integers (spec/43_arithmetic.md R180) -/

theorem toNat_decide (p : Prop) [Decidable p] : (decide p).toNat = if p then 1 else 0 :=
  Bool.cond_decide p 1 0

section
variable (a b : Byte) (c : Bool)

/-- D and DF hold the 9-bit sum, DF as its top bit. -/
theorem addWithCarry_sum :
    (addWithCarry a b c).1.toNat + 256 * (addWithCarry a b c).2.toNat =
      a.toNat + b.toNat + c.toNat := by
  have ha := a.isLt
  have hb := b.isLt
  have hc := c.toNat_le
  simp only [addWithCarry, BitVec.toNat_ofNat, toNat_decide]
  split <;> omega

/-- A borrow (DF = 0) leaves D 256 above the difference. -/
theorem subWithBorrow_difference :
    ((subWithBorrow a b c).1.toNat : Int) - 256 * (1 - (subWithBorrow a b c).2.toNat) =
      a.toNat - b.toNat - (1 - c.toNat) := by
  have ha := a.isLt
  have hb := b.isLt
  have hc := c.toNat_le
  simp only [subWithBorrow, BitVec.toNat_ofInt, toNat_decide]
  split <;> omega

theorem addWithCarry_false_sum :
    (addWithCarry a b false).1.toNat + 256 * (addWithCarry a b false).2.toNat =
      a.toNat + b.toNat :=
  addWithCarry_sum a b false

/-- A carry in of 1 is no borrow in. -/
theorem subWithBorrow_true_difference :
    ((subWithBorrow a b true).1.toNat : Int) - 256 * (1 - (subWithBorrow a b true).2.toNat) =
      a.toNat - b.toNat :=
  (subWithBorrow_difference a b true).trans (sub_zero _)

/-- The 9-bit integer that D and DF form determines both. -/
theorem result_ext {r r' : Byte × Bool}
    (h : r.1.toNat + 256 * r.2.toNat = r'.1.toNat + 256 * r'.2.toNat) : r = r' := by
  have hr := r.1.isLt
  have hr' := r'.1.isLt
  have hd : r.1.toNat = r'.1.toNat := by omega
  have hdf : r.2.toNat = r'.2.toNat := by omega
  exact Prod.ext (BitVec.eq_of_toNat_eq hd) (Function.LeftInverse.injective Bool.ofNat_toNat hdf)

theorem complement_toNat : (b ^^^ 0xFF).toNat = 255 - b.toNat := by
  have hnot : b ^^^ 0xFF = ~~~b := BitVec.xor_allOnes
  rw [hnot, BitVec.toNat_not]

end

/-- Settles O29: the complement is 255 - b, so the 9-bit sum is the difference plus 256, which is
what D and DF of the subtraction form. -/
theorem subtractionIsAdditionOfTheComplement :
    Obligations.SubtractionIsAdditionOfTheComplement := by
  intro a b c
  have hb := b.isLt
  have hcomplement := complement_toNat b
  have hsum := addWithCarry_sum a (b ^^^ 0xFF) c
  have hdifference := subWithBorrow_difference a b c
  exact result_ext (by omega)

/-! ### The arithmetic instructions (spec/43_arithmetic.md R181 to R192) -/

/-- A result written before R[P] moves past the operand byte (R93) changes D, DF and R[P] only. -/
theorem skipOperand_setResult_frame (s : State) (r : Byte × Bool) :
    pc (skipOperand (setResult s r)) = pc s + 1 ∧
      OtherRegsKept s (skipOperand (setResult s r)) s.p ∧
      skipOperand (setResult s r) =
        { s with d := r.1, df := r.2, regs := (skipOperand (setResult s r)).regs } ∧
      SameMemory s (skipOperand (setResult s r)) :=
  ⟨pc_setPc .., fun m hm => getReg_setReg_other _ s.p m _ hm, rfl, readByte_congr rfl rfl⟩

section
variable {s : State} {i : Instr} {r : Byte × Bool} {value : State → Prop}

/-- A memory form: its result goes to D and DF, and nothing else changes. -/
theorem exec_setResult_value (hi : exec i s = .next (setResult s r))
    (hvalue : value (setResult s r)) :
    ∃ t, exec i s = .next t ∧ t = { s with d := t.d, df := t.df } ∧ SameMemory s t ∧ value t := by
  obtain ⟨hframe, hmem⟩ := setResult_frame s r
  exact ⟨_, hi, hframe, hmem, hvalue⟩

/-- An immediate form: its result goes to D and DF, and R[P] moves past the operand byte. -/
theorem exec_skipOperand_setResult_value (hi : exec i s = .next (skipOperand (setResult s r)))
    (hvalue : value (skipOperand (setResult s r))) :
    ∃ t, exec i s = .next t ∧ pc t = pc s + 1 ∧ OtherRegsKept s t s.p ∧
      t = { s with d := t.d, df := t.df, regs := t.regs } ∧ SameMemory s t ∧ value t := by
  obtain ⟨hpc, hregs, hframe, hmem⟩ := skipOperand_setResult_frame s r
  exact ⟨_, hi, hpc, hregs, hframe, hmem, hvalue⟩

end

/-- Settles O27: each addition is `addWithCarry` of the operand and D, with a 0 or DF coming in. -/
theorem additionsGiveSumAndCarry : Obligations.AdditionsGiveSumAndCarry := by
  intro s imm
  refine ⟨?add, ?adc, ?adi, ?adci⟩
  case add => exact exec_setResult_value rfl (addWithCarry_false_sum (memOperand s) s.d)
  case adc => exact exec_setResult_value rfl (addWithCarry_sum (memOperand s) s.d s.df)
  case adi => exact exec_skipOperand_setResult_value rfl (addWithCarry_false_sum imm s.d)
  case adci => exact exec_skipOperand_setResult_value rfl (addWithCarry_sum imm s.d s.df)

/-- Settles O28: each subtraction is `subWithBorrow` of the operand and D, in the one order or the
other, with a 1 or DF coming in. -/
theorem subtractionsGiveDifferenceAndNoBorrow :
    Obligations.SubtractionsGiveDifferenceAndNoBorrow := by
  intro s imm
  refine ⟨?sd, ?sdb, ?sm, ?smb, ?sdi, ?sdbi, ?smi, ?smbi⟩
  case sd => exact exec_setResult_value rfl (subWithBorrow_true_difference (memOperand s) s.d)
  case sdb => exact exec_setResult_value rfl (subWithBorrow_difference (memOperand s) s.d s.df)
  case sm => exact exec_setResult_value rfl (subWithBorrow_true_difference s.d (memOperand s))
  case smb => exact exec_setResult_value rfl (subWithBorrow_difference s.d (memOperand s) s.df)
  case sdi => exact exec_skipOperand_setResult_value rfl (subWithBorrow_true_difference imm s.d)
  case sdbi => exact exec_skipOperand_setResult_value rfl (subWithBorrow_difference imm s.d s.df)
  case smi => exact exec_skipOperand_setResult_value rfl (subWithBorrow_true_difference s.d imm)
  case smbi => exact exec_skipOperand_setResult_value rfl (subWithBorrow_difference s.d imm s.df)

end Sys2Proof.Machine
end

section
namespace Sys2Proof.Machine

/-! ### Where execution continues (spec/44_branch.md R200, R220, R221) -/

theorem setPc_setPc (s : State) (v w : Word) : setPc (setPc s v) w = setPc s w := by
  simp [setPc, setReg]

theorem setPc_continuesAt (s : State) (w : Word) : ContinuesAt s (setPc s w) w :=
  ⟨pc_setPc s w, setReg_frame s s.p w⟩

/-- The zero test of the branches (R22). -/
theorem dIsZero_iff (s : State) : dIsZero s = true ↔ s.d = 0 := beq_iff_eq

/-- A choice on the opposite of a flag is the opposite choice. -/
theorem ite_bnot {α : Type} (b : Bool) (x y : α) :
    (if !b then x else y) = if b then y else x := by
  cases b <;> rfl

theorem shortBranch_eq_pageTarget (s : State) (c : Bool) (a : Byte) :
    shortBranch s c a = setPc s (if c then pageTarget s a else pc s + 1) := by
  rw [shortBranch_eq, shortTarget_eq]

section
variable {s u : State} {i : Instr} {c : Bool} {P : Prop} [Decidable P] {w w' : Word}

theorem exec_continuesAt (hi : exec i s = .next u) (hu : u = setPc s w) :
    ∃ t, exec i s = .next t ∧ ContinuesAt s t w :=
  ⟨u, hi, hu ▸ setPc_continuesAt s w⟩

/-- A jump on the condition `P`. -/
theorem exec_continuesAt_if (hi : exec i s = .next u) (hu : u = setPc s (if c then w else w'))
    (hc : c = true ↔ P) : ∃ t, exec i s = .next t ∧ ContinuesAt s t (if P then w else w') :=
  exec_continuesAt hi (by rw [hu, if_congr hc rfl rfl])

/-- A jump on the opposite of the condition `P`. -/
theorem exec_continuesAt_unless (hi : exec i s = .next u)
    (hu : u = setPc s (if !c then w else w')) (hc : c = true ↔ P) :
    ∃ t, exec i s = .next t ∧ ContinuesAt s t (if P then w' else w) :=
  exec_continuesAt_if hi (by rw [hu, ite_bnot]) hc

end

/-- Settles O30: each is `shortBranch` on a flag of the state or on its opposite. -/
theorem shortBranchesOnStateFlags : Obligations.ShortBranchesOnStateFlags := by
  intro s a
  refine ⟨?br, ?bq, ?bz, ?bdf, ?bnq, ?bnz, ?bnf⟩
  case br => exact exec_continuesAt rfl (shortBranch_eq_pageTarget s true a)
  case bq => exact exec_continuesAt_if rfl (shortBranch_eq_pageTarget ..) Iff.rfl
  case bz => exact exec_continuesAt_if rfl (shortBranch_eq_pageTarget ..) (dIsZero_iff s)
  case bdf => exact exec_continuesAt_if rfl (shortBranch_eq_pageTarget ..) Iff.rfl
  case bnq => exact exec_continuesAt_unless rfl (shortBranch_eq_pageTarget ..) Iff.rfl
  case bnz => exact exec_continuesAt_unless rfl (shortBranch_eq_pageTarget ..) (dIsZero_iff s)
  case bnf => exact exec_continuesAt_unless rfl (shortBranch_eq_pageTarget ..) Iff.rfl

/-- Settles O35: each is `longBranch` on a flag of the state or on its opposite. -/
theorem longBranchesOnStateFlags : Obligations.LongBranchesOnStateFlags := by
  intro s w
  refine ⟨?lbr, ?lbq, ?lbz, ?lbdf, ?lbnq, ?lbnz, ?lbnf⟩
  case lbr => exact exec_continuesAt rfl (longBranch_eq s true w)
  case lbq => exact exec_continuesAt_if rfl (longBranch_eq ..) Iff.rfl
  case lbz => exact exec_continuesAt_if rfl (longBranch_eq ..) (dIsZero_iff s)
  case lbdf => exact exec_continuesAt_if rfl (longBranch_eq ..) Iff.rfl
  case lbnq => exact exec_continuesAt_unless rfl (longBranch_eq ..) Iff.rfl
  case lbnz => exact exec_continuesAt_unless rfl (longBranch_eq ..) (dIsZero_iff s)
  case lbnf => exact exec_continuesAt_unless rfl (longBranch_eq ..) Iff.rfl

/-- Settles O36: each long skip is `longSkip` on a flag of the state or on its opposite. -/
theorem skipsPassOverBytes : Obligations.SkipsPassOverBytes := by
  intro s
  refine ⟨?skp, ?lskp, ?lsnq, ?lsnz, ?lsnf, ?lsie, ?lsq, ?lsz, ?lsdf⟩
  case skp => exact exec_continuesAt rfl rfl
  case lskp => exact exec_continuesAt rfl (longSkip_eq s true)
  case lsnq => exact exec_continuesAt_unless rfl (longSkip_eq ..) Iff.rfl
  case lsnz => exact exec_continuesAt_unless rfl (longSkip_eq ..) (dIsZero_iff s)
  case lsnf => exact exec_continuesAt_unless rfl (longSkip_eq ..) Iff.rfl
  case lsie => exact exec_continuesAt_if rfl (longSkip_eq ..) Iff.rfl
  case lsq => exact exec_continuesAt_if rfl (longSkip_eq ..) Iff.rfl
  case lsz => exact exec_continuesAt_if rfl (longSkip_eq ..) (dIsZero_iff s)
  case lsdf => exact exec_continuesAt_if rfl (longSkip_eq ..) Iff.rfl

/-- IDL steps back over the fetch (R250). -/
theorem exec_idl_afterFetch (s : State) : exec .idl (afterFetch s) = .next s := by
  have hfetch : afterFetch s = setPc s (pc s + 1) := afterFetch_eq s
  have hback : setPc (afterFetch s) (pc (afterFetch s) - 1) = s := by
    rw [hfetch, pc_setPc, setPc_setPc, BitVec.add_sub_cancel, setPc_pc]
  exact congrArg Host.Outcome.next hback

/-- Settles O37: NOP and 0x68 answer their state; IDL sets R[P] one back, onto where the fetch
began. -/
theorem nopAndIdleChangeAtMostTheProgramCounter :
    Obligations.NopAndIdleChangeAtMostTheProgramCounter := fun s =>
  ⟨rfl, rfl, exec_continuesAt rfl rfl, exec_idl_afterFetch s⟩

end Sys2Proof.Machine
end

section
namespace Sys2Proof.Machine

/-! ### Branches on flags 3 and 4 (spec/46_io.md R290 to R293) -/

section
variable {s u : State} {flag : ExternalFlag} {bit : Bool}

theorem branchOnFlag_true_eq (h : testFlag s flag = (bit, u)) (a : Byte) :
    branchOnFlag s flag true a = setPc u (if bit then pageTarget s a else pc s + 1) := by
  rw [branchOnFlag_eq, h, shortTarget_eq]

theorem branchOnFlag_false_eq (h : testFlag s flag = (bit, u)) (a : Byte) :
    branchOnFlag s flag false a = setPc u (if bit then pc s + 1 else pageTarget s a) := by
  rw [branchOnFlag_eq, h, shortTarget_eq]
  cases bit <;> rfl

end

section
variable {s : State}

theorem ef3Patched_iff :
    ef3Patched s = true ↔
      s.cfg.variant = .a ∧ pc s = s.cfg.ef3PatchPc ∧ s.keyLatch = s.cfg.ef3PatchLatch := by
  cases hv : s.cfg.variant <;> simp [ef3Patched, hasEf3Patch, hv]

/-- Variant B tests the sampled key (R290). -/
theorem testFlag_ef3_cached (hv : s.cfg.variant = .b) :
    testFlag s .ef3 = (s.curKey.isSome, s) := by
  simp [testFlag, ef3Patched, hasEf3Patch, ef3Live, hv]

theorem testFlag_ef3_patched (h : ef3Patched s = true) :
    testFlag s .ef3 = (s.cfg.ef3PatchValue, s) := if_pos h

/-- Variants A and C ask the host, but for the patch of Variant A (R290, R291). -/
theorem testFlag_ef3_live (hp : ¬ef3Patched s = true) (hv : ef3Live s.cfg.variant = true) :
    testFlag s .ef3 = hostPoll s .readKeyboard s.keyLatch :=
  (if_neg hp).trans (if_pos hv)

end

/-- Settles O32: in both clauses flag 3 is a bit of the state, and the test changes nothing. -/
theorem flagThreeCachedOrPatched : Obligations.FlagThreeCachedOrPatched := by
  intro s a
  refine ⟨fun hv => ?cached, fun hv hpc hlatch => ?patched⟩
  case cached =>
    have hflag : testFlag s .ef3 = (!s.curKey.isNone, s) := by
      rw [testFlag_ef3_cached hv, Option.not_isNone]
    have hnone : s.curKey.isNone = true ↔ s.curKey = none := Option.isNone_iff_eq_none
    exact ⟨exec_continuesAt_unless rfl (branchOnFlag_true_eq hflag a) hnone,
      exec_continuesAt_unless rfl (branchOnFlag_false_eq hflag a) hnone⟩
  case patched =>
    have hflag := testFlag_ef3_patched (ef3Patched_iff.mpr ⟨hv, hpc, hlatch⟩)
    exact ⟨exec_continuesAt rfl (branchOnFlag_true_eq hflag a),
      exec_continuesAt rfl (branchOnFlag_false_eq hflag a)⟩

/-! ### Polls of the host (spec/60_exceptions.md R341) -/

section
variable (s : State) (command : HostCommand) (parameter : Byte)

theorem hostPoll_answer_fixed {b : Bool} {rest : List Bool} (h : s.hostAnswers = b :: rest) :
    (hostPoll s command parameter).1 = b := by
  simp [hostPoll, h]

theorem hostPoll_answer_free (h : s.hostAnswers = []) :
    (hostPoll s command parameter).1 =
      Config.hostAnswer command parameter s.hostLog.length := by
  simp [hostPoll, h]

@[simp] theorem hostPoll_hostAnswers :
    (hostPoll s command parameter).2.hostAnswers = s.hostAnswers.tail := by
  cases h : s.hostAnswers <;> simp [hostPoll, h]

/-- A jump after a poll changes R[P], the record and the fixed answers only. -/
theorem setPc_hostPoll_frame (w : Word) :
    OtherRegsKept s (setPc (hostPoll s command parameter).2 w) s.p ∧
      SameMemory s (setPc (hostPoll s command parameter).2 w) ∧
      setPc (hostPoll s command parameter).2 w =
        { s with
          regs := (setPc (hostPoll s command parameter).2 w).regs
          hostLog := { command := command, parameter := parameter } :: s.hostLog
          hostAnswers := s.hostAnswers.tail } := by
  refine ⟨fun m hm => ?kept, readByte_congr (by simp) (by simp), ?frame⟩
  case kept =>
    have hp : m ≠ (hostPoll s command parameter).2.p := by rwa [hostPoll_p]
    exact (getReg_setReg_other _ _ m w hp).trans (getReg_congr (hostPoll_regs ..) m)
  case frame =>
    rw [← hostPoll_hostAnswers s command parameter, hostPoll_eq]
    rfl

end

/-- Two instructions that poll the host once and jump on its answer in opposite senses. -/
theorem exec_branches_on_poll {s : State} {command : HostCommand} {parameter : Byte}
    {i j : Instr} {w w' : Word} {si sj : State}
    (hi : exec i s = .next si) (hj : exec j s = .next sj)
    (hsi : si = setPc (hostPoll s command parameter).2
      (if (hostPoll s command parameter).1 then w else w'))
    (hsj : sj = setPc (hostPoll s command parameter).2
      (if (hostPoll s command parameter).1 then w' else w)) :
    ∃ (answer : Bool) (t u : State),
      (∀ (b : Bool) (rest : List Bool), s.hostAnswers = b :: rest → answer = b) ∧
      (s.hostAnswers = [] →
        answer = Config.hostAnswer command parameter s.hostLog.length) ∧
      exec i s = .next t ∧ exec j s = .next u ∧
      pc t = (if answer = true then w else w') ∧
      pc u = (if answer = true then w' else w) ∧
      ∀ v ∈ [t, u], OtherRegsKept s v s.p ∧ SameMemory s v ∧
        v = { s with
          regs := v.regs
          hostLog := { command := command, parameter := parameter } :: s.hostLog
          hostAnswers := s.hostAnswers.tail } := by
  subst hsi hsj
  refine ⟨(hostPoll s command parameter).1, _, _, fun b rest h => ?fixed, fun h => ?free, hi, hj,
    pc_setPc .., pc_setPc .., ?frame⟩
  case fixed => exact hostPoll_answer_fixed s command parameter h
  case free => exact hostPoll_answer_free s command parameter h
  case frame =>
    rw [List.forall_mem_cons, List.forall_mem_singleton]
    exact ⟨setPc_hostPoll_frame .., setPc_hostPoll_frame ..⟩

/-- Settles O33: flag 3 is then one poll for the key of the latch, in the sense of its answer. -/
theorem flagThreeLiveAsksTheHostOnce : Obligations.FlagThreeLiveAsksTheHostOnce := by
  intro s a hlive
  have hpatch : ¬ef3Patched s = true := by
    rw [ef3Patched_iff]
    rintro ⟨hv, hpc, hlatch⟩
    rcases hlive with hc | ⟨-, hne | hne⟩
    · exact absurd (hv.symm.trans hc) (by decide)
    · exact hne hpc
    · exact hne hlatch
  have hkeyboard : ef3Live s.cfg.variant = true := by
    rcases hlive with hv | ⟨hv, -⟩ <;> rw [hv] <;> rfl
  have hflag := testFlag_ef3_live hpatch hkeyboard
  exact exec_branches_on_poll rfl rfl (branchOnFlag_true_eq hflag a)
    (branchOnFlag_false_eq hflag a)

/-- Settles O34: flag 4 is one poll for the secondary key, in the sense opposite to its answer. -/
theorem flagFourIsTheInverseOfTheSecondaryKey :
    Obligations.FlagFourIsTheInverseOfTheSecondaryKey := by
  intro s a
  have hflag : testFlag s .ef4 =
      (!(hostPoll s .readSecondaryKey 0).1, (hostPoll s .readSecondaryKey 0).2) := rfl
  have htaken := branchOnFlag_true_eq hflag a
  have hpassed := branchOnFlag_false_eq hflag a
  rw [ite_bnot] at htaken hpassed
  exact exec_branches_on_poll rfl rfl htaken hpassed

end Sys2Proof.Machine
end

section
namespace Sys2Proof.Machine

/-! ### IDL while the screen is disabled (spec/45_control.md R250, spec/60_exceptions.md R301) -/

/-- From `s` to `t` only the frame machine, the captured screen, the keyboard and the exchange with
the Hardware Host have moved. -/
def OnlyFrameMoved (s t : State) : Prop :=
  t = { s with
    frameState := t.frameState
    budget := t.budget
    screenBase := t.screenBase
    scroll := t.scroll
    curKey := t.curKey
    keyLatch := t.keyLatch
    hostLog := t.hostLog
    hostAnswers := t.hostAnswers }

namespace OnlyFrameMoved
variable {s t u : State}

theorem refl (s : State) : OnlyFrameMoved s s := rfl

theorem trans (hst : OnlyFrameMoved s t) (htu : OnlyFrameMoved t u) : OnlyFrameMoved s u :=
  Eq.trans htu (by rw [hst])

theorem cfg_eq (h : OnlyFrameMoved s t) : t.cfg = s.cfg := by rw [h]

theorem screenEnabled_eq (h : OnlyFrameMoved s t) : t.screenEnabled = s.screenEnabled := by rw [h]

theorem pc_eq (h : OnlyFrameMoved s t) : pc t = pc s := by
  rw [h]
  rfl

theorem sameMemory (h : OnlyFrameMoved s t) : SameMemory s t :=
  readByte_congr h.cfg_eq (by rw [h])

end OnlyFrameMoved

/-- With the screen disabled the end of Bulk neither wakes an IDL nor interrupts (R314). -/
theorem bulkToIP_of_screenOff {s : State} (hscreen : s.screenEnabled = false) :
    bulkToIP s = { s with frameState := .interruptPreliminary, budget := ipBudget } := by
  rcases bulkToIP_cases s with ⟨-, hsilent⟩ | ⟨hon, -⟩ | ⟨hon, -⟩
  · exact hsilent
  all_goals exact absurd (hscreen.symm.trans hon) Bool.false_ne_true

/-- With the screen disabled no part of the bookkeeping reaches the registers. -/
theorem frameTick_onlyFrameMoved {s : State} (hscreen : s.screenEnabled = false) :
    OnlyFrameMoved s (frameTick s) := by
  rcases frameTick_cases s with ⟨-, hcount⟩ | ⟨-, -, hend⟩ | ⟨-, -, hend⟩
  · rw [hcount]
    rfl
  · rw [hend, bulkToIP_of_screenOff (by exact hscreen)]
    rfl
  · rw [hend, ipToBulk_eq]
    rfl

/-- The machine idles: R[P] addresses an IDL, and nothing can wake it. -/
structure IdlesForever (s : State) : Prop where
  instanceOk : configWf s.cfg
  screenOff : s.screenEnabled = false
  onIdl : readByte s (pc s) = 0x00

theorem IdlesForever.of_onlyFrameMoved {s t : State} (hs : IdlesForever s)
    (h : OnlyFrameMoved s t) : IdlesForever t where
  instanceOk := h.cfg_eq ▸ hs.instanceOk
  screenOff := h.screenEnabled_eq.trans hs.screenOff
  onIdl := by rw [h.pc_eq, h.sameMemory, hs.onIdl]

/-- The byte 0x00 is IDL, whatever follows it (R98). -/
theorem fetchInstr_idl {s : State} (h : readByte s (pc s) = 0x00) : fetchInstr s = .idl := by
  unfold fetchInstr
  rw [h]
  rfl

/-- An advance on an IDL is the bookkeeping alone: the execute phase undoes the fetch. -/
theorem IdlesForever.step_eq {s : State} (hs : IdlesForever s) : step s = .next (frameTick s) := by
  rw [step_of_wf hs.instanceOk, fetchInstr_idl hs.onIdl, exec_idl_afterFetch]

theorem IdlesForever.run {s : State} (hs : IdlesForever s) (k : Nat) :
    ∃ t, core.run k s = .next t ∧ OnlyFrameMoved s t := by
  induction k generalizing s with
  | zero => exact ⟨s, rfl, .refl s⟩
  | succ k ih =>
    have hmoved := frameTick_onlyFrameMoved hs.screenOff
    obtain ⟨t, hrun, ht⟩ := ih (hs.of_onlyFrameMoved hmoved)
    exact ⟨t, (core_run_succ k hs.step_eq).trans hrun, hmoved.trans ht⟩

/-- Settles O57: idling with the screen off is kept by every advance, which moves the frame machine
only. -/
theorem idleWithTheScreenOffIsNeverLeft : Obligations.IdleWithTheScreenOffIsNeverLeft := by
  intro s k hwf hscreen hidl
  obtain ⟨t, hrun, hmoved⟩ := IdlesForever.run ⟨hwf, hscreen, hidl⟩ k
  exact ⟨t, hrun, hmoved.pc_eq, hmoved.sameMemory, hmoved⟩

end Sys2Proof.Machine
end

section
namespace Sys2Proof.Machine

/-! ### Saving and restoring X and P (spec/45_control.md R256 to R258) -/

/-- X : P is the byte whose group is X and whose field is P (R28). -/
theorem packXP_toNat (x p : RegNum) : (packXP x p).toNat = 16 * x.toNat + p.toNat := by
  rw [show packXP x p = opByte x p from rfl, opByte_toNat, Nat.mul_comm]

/-- What MARK writes to T and X, before its store (R256). -/
def markTX (s : State) : State := { s with t := packXP s.x s.p, x := s.p }

/-- What MARK leaves: the store of X : P at R[2] and the count down of R[2] follow (R256). -/
def marked (s : State) : State :=
  decReg (writeByte (markTX s) (getReg s 2) (packXP s.x s.p)) 2

theorem marked_t (s : State) : (marked s).t = packXP s.x s.p := writeByte_t (markTX s) ..

theorem marked_x (s : State) : (marked s).x = s.p := writeByte_x (markTX s) ..

/-- The store of MARK does not see X, so X may be written before it. -/
theorem exec_mark (s : State) : exec .mark s = .next (marked s) := by
  have hmem : (writeByte { s with t := packXP s.x s.p } (getReg s 2) (packXP s.x s.p)).mem =
      (writeByte (markTX s) (getReg s 2) (packXP s.x s.p)).mem :=
    writeByte_mem_congr (by rfl) (by rfl) ..
  have hstore : ({ writeByte { s with t := packXP s.x s.p } (getReg s 2) (packXP s.x s.p) with
      x := s.p } : State) = writeByte (markTX s) (getReg s 2) (packXP s.x s.p) := by
    rw [writeByte_eq, writeByte_eq (markTX s), hmem]
    rfl
  exact congrArg (fun u => Host.Outcome.next (decReg u 2)) hstore

/-- Settles O40: MARK is the write of T and X, then a store with a count down of R[2]. -/
theorem markSavesXAndP : Obligations.MarkSavesXAndP := by
  intro s
  obtain ⟨hstored, hcount, hkept, hframe⟩ :=
    decReg_writeByte_frame (markTX s) (getReg s 2) (packXP s.x s.p) 2
  refine ⟨marked s, exec_mark s, ?saved, ?stored, marked_x s, hcount, hkept, ?frame⟩
  case saved => rw [marked_t, packXP_toNat]
  case stored => exact (marked_t s).symm ▸ hstored
  case frame =>
    rw [marked_t, marked_x]
    exact hframe

/-- Once for RET and DIS: the two halves of M(R[X]) go to X and P, and the old R[X] counts up. -/
theorem returnWith_frame (s : State) (enable : Bool) :
    (returnWith s enable).x.toNat = (readByte s (getReg s s.x)).toNat / 16 ∧
      (returnWith s enable).p.toNat = (readByte s (getReg s s.x)).toNat % 16 ∧
      (returnWith s enable).ie = enable ∧
      getReg (returnWith s enable) s.x = getReg s s.x + 1 ∧
      OtherRegsKept s (returnWith s enable) s.x ∧
      returnWith s enable =
        { s with
          x := (returnWith s enable).x
          p := (returnWith s enable).p
          ie := (returnWith s enable).ie
          regs := (returnWith s enable).regs } ∧
      SameMemory s (returnWith s enable) :=
  ⟨groupOf_toNat _, fieldOf_toNat _, rfl, getReg_incReg_same s s.x,
    fun m hm => getReg_incReg_other s s.x m hm, rfl, readByte_congr rfl rfl⟩

/-- Settles O41: RET and DIS are the return with IE set and with IE cleared. -/
theorem retAndDisRestoreXAndP : Obligations.RetAndDisRestoreXAndP := fun s =>
  ⟨⟨returnWith s true, rfl, returnWith_frame s true⟩,
    ⟨returnWith s false, rfl, returnWith_frame s false⟩⟩

/-! ### Selecting registers and writing Q (spec/45_control.md R251 to R254) -/

/-- Settles O38: SEP changes which register is the program counter, SEX which one points at data. -/
theorem sepAndSexSelectARegister : Obligations.SepAndSexSelectARegister := by
  intro s n
  refine ⟨⟨{ s with p := n }, ?sep⟩, ⟨{ s with x := n }, ?sex⟩⟩
  case sep => exact ⟨rfl, rfl, rfl, rfl, readByte_congr rfl rfl⟩
  case sex => exact ⟨rfl, rfl, rfl, rfl, readByte_congr rfl rfl⟩

/-- Port 0 is Q's: its data goes to the host (R281). -/
theorem ioOut_zero (s : State) (data : Byte) :
    ioOut s 0 data = hostCommand s .updateOutputFlag data := rfl

/-- An instruction that writes Q and sends `data` for it issues the command whatever Q was. -/
theorem exec_writesQ {i : Instr} {s : State} {q : Bool} {data : Byte}
    (hi : exec i s = .next (ioOut { s with q := q } 0 data)) :
    ∃ t, exec i s = .next t ∧ SameMemory s t ∧
      t = { s with
        q := q
        hostLog := { command := .updateOutputFlag, parameter := data } :: s.hostLog } := by
  rw [ioOut_zero] at hi
  exact ⟨_, hi, readByte_congr rfl rfl, rfl⟩

/-- Settles O39: SEQ writes 1 to Q and sends 1, REQ writes 0 and sends 0. -/
theorem seqAndReqWriteQAndTellTheHost : Obligations.SeqAndReqWriteQAndTellTheHost :=
  fun _ => ⟨exec_writesQ rfl, exec_writesQ rfl⟩

end Sys2Proof.Machine
end

section
namespace Sys2Proof.Machine

/-! ### Flags 1 and 2 (spec/46_io.md R292) -/

/-- Settles O31: both flags are constants, so each branch on them is one jump from `s` itself. -/
theorem flagOneIsAssertedAndFlagTwoIsNot : Obligations.FlagOneIsAssertedAndFlagTwoIsNot := by
  intro s a
  have hone : testFlag s .ef1 = (true, s) := rfl
  have htwo : testFlag s .ef2 = (false, s) := rfl
  refine ⟨hone, htwo, ?b1, ?bn1, ?b2, ?bn2⟩
  case b1 => exact exec_continuesAt rfl (branchOnFlag_true_eq hone a)
  case bn1 => exact exec_continuesAt rfl (branchOnFlag_false_eq hone a)
  case b2 => exact exec_continuesAt rfl (branchOnFlag_true_eq htwo a)
  case bn2 => exact exec_continuesAt rfl (branchOnFlag_false_eq htwo a)

end Sys2Proof.Machine
end

section
namespace Sys2Proof.Machine

/-! ### Output (spec/46_io.md R282 to R286, R289) -/

/-- The variants with a select latch (R7, decision D14). -/
theorem latchKind_eq_select_iff (v : Variant) : latchKind v = .select ↔ v ≠ .b := by
  cases v <;> decide

/-- The variant with a display port (R7, decision D14). -/
theorem hasPort4_iff (v : Variant) : hasPort4 v = true ↔ v = .b := by
  cases v <;> decide

/-- The select latch takes the low four bits of the data (R282, decision D9). -/
theorem fieldOf_zeroExtend (b : Byte) :
    (fieldOf b).zeroExtend 8 = BitVec.ofNat 8 (b.toNat % 16) := by
  rw [← fieldOf_toNat, BitVec.ofNat_toNat]

/-- Ports 1 to 7 write one field each or none: the screen flag, the latch or the record. -/
theorem ioOut_eq_of_ne_zero {s : State} {port : Port} (hport : port ≠ 0) (data : Byte) :
    ioOut s port data =
      { s with
        screenEnabled := if port = 1 then false else s.screenEnabled
        keyLatch := if port = 2 ∧ s.cfg.variant ≠ .b
          then BitVec.ofNat 8 (data.toNat % 16) else s.keyLatch
        hostLog := if port = 4 ∧ s.cfg.variant = .b
          then { command := .updateDisplay, parameter := data } :: s.hostLog
          else s.hostLog } := by
  simp only [← latchKind_eq_select_iff, ← hasPort4_iff, ← fieldOf_zeroExtend]
  rcases ioOut_cases s port data with ⟨h0, -⟩ | ⟨rfl, h⟩ | ⟨rfl, hk, h⟩ | ⟨rfl, hk, h⟩ |
    ⟨rfl, h4, h⟩ | ⟨rfl, h4, h⟩ | ⟨-, h1, h2, h4, h⟩
  case inl => exact absurd h0 hport
  all_goals rw [h]
  case inr.inl => simp
  case inr.inr.inl | inr.inr.inr.inl => simp [hk]
  case inr.inr.inr.inr.inl | inr.inr.inr.inr.inr.inl => simp [h4, hostCommand]
  case inr.inr.inr.inr.inr.inr => simp only [h1, h2, h4, false_and, if_false]

/-- OUT counts R[X] up and hands the byte it addressed to the port. -/
theorem exec_out (s : State) (port : Port) :
    exec (.out port) s = .next (ioOut (incReg s s.x) port (readByte s (getReg s s.x))) := rfl

/-- Settles O43: the port's action on the state after R[X] was counted up. -/
theorem outputActsOnItsPort : Obligations.OutputActsOnItsPort := by
  intro s port hport
  refine ⟨_, exec_out s port, ?_⟩
  rw [ioOut_eq_of_ne_zero hport]
  exact ⟨getReg_incReg_same s s.x, fun m hm => getReg_incReg_other s s.x m hm,
    readByte_congr rfl rfl, rfl, rfl, rfl, rfl⟩

end Sys2Proof.Machine
end

section
namespace Sys2Proof.Machine

/-! ### Input (spec/46_io.md R283, R287, R288, R294) -/

section
variable (s : State) (port : Port)

/-- Only port 1 touches the screen flag (R283). -/
theorem ioIn_screenEnabled :
    (ioIn s port).2.screenEnabled = if port = 1 then true else s.screenEnabled := by
  rcases ioIn_cases s port with ⟨rfl, h⟩ | ⟨rfl, -, h⟩ | ⟨rfl, -, h⟩ | ⟨h1, -, h⟩ <;> rw [h]
  case inl => exact (if_pos rfl).symm
  case inr.inl | inr.inr.inl => exact (if_neg (by decide)).symm
  case inr.inr.inr => exact (if_neg h1).symm

/-- The state after INP: the write, in the state after the input, and D. -/
def inputStored : State :=
  { writeByte (ioIn s port).2 (getReg (ioIn s port).2 (ioIn s port).2.x) (ioIn s port).1 with
    d := (ioIn s port).1 }

theorem exec_inp : exec (.inp port) s = .next (inputStored s port) := rfl

theorem inputStored_d :
    (inputStored s port).d = if port = 4 ∧ s.cfg.variant = .b then s.keyLatch else 0x00 :=
  ioIn_value s port

theorem inputStored_screenEnabled :
    (inputStored s port).screenEnabled = if port = 1 then true else s.screenEnabled :=
  (writeByte_screenEnabled ..).trans (ioIn_screenEnabled s port)

theorem inputStored_cfg : (inputStored s port).cfg = s.cfg :=
  (writeByte_cfg ..).trans (ioIn_cfg s port)

/-- The input's own effect reaches neither R[X] nor the Memory Map, so the write is one of `s`. -/
theorem inputStored_storedAt :
    StoredAt s (inputStored s port) (getReg s s.x) (inputStored s port).d := by
  have hvalue : (inputStored s port).d = storeValue (.inp port) s := ioIn_value s port
  rw [hvalue]
  exact (writeByte_storedAt s _ _).congr
    ((inputStored_cfg s port).trans (writeByte_cfg ..).symm) (execInp_mem s port)

theorem inputStored_eq :
    inputStored s port =
      { s with
        d := (inputStored s port).d
        mem := (inputStored s port).mem
        screenEnabled := (inputStored s port).screenEnabled } := by
  unfold inputStored
  rw [writeByte_eq, ioIn_eq]

end

/-- Settles O44: the fields of the state after INP; port 0 would answer as an unused port. -/
theorem inputStoresItsValue : Obligations.InputStoresItsValue := fun s port _ =>
  ⟨inputStored s port, exec_inp s port, inputStored_d s port, inputStored_storedAt s port,
    inputStored_screenEnabled s port, inputStored_eq s port⟩

end Sys2Proof.Machine
end

section
namespace Sys2Proof.Machine

/-! ### How long a phase lasts (spec/60_exceptions.md R310 to R313, R329) -/

/-- The phase that follows a phase (R312). -/
def FrameState.other : FrameState → FrameState
  | .bulk => .interruptPreliminary
  | .interruptPreliminary => .bulk

/-- The budget a phase is entered with (R313). -/
def phaseBudget (c : Config) : FrameState → Int
  | .bulk => c.bulkBudget
  | .interruptPreliminary => ipBudget

theorem FrameState.other_ne (f : FrameState) : f.other ≠ f := by
  cases f <;> exact nofun

section
variable {s t : State}

theorem frameTick_of_not_low (h : 2 ≤ s.budget) :
    frameTick s = { s with budget := s.budget - 2 } := by
  rcases frameTick_cases s with ⟨-, hcount⟩ | ⟨hlow, -⟩ | ⟨hlow, -⟩
  · exact hcount
  all_goals exact absurd h (Int.not_le.mpr hlow)

theorem bulkToIP_of_masked (hscreen : s.screenEnabled = true) (hie : s.ie = false) :
    bulkToIP s = { idlWake s with frameState := .interruptPreliminary, budget := ipBudget } := by
  rcases bulkToIP_cases s with ⟨hoff, -⟩ | ⟨-, -, hwake⟩ | ⟨-, hon, -⟩
  · exact absurd (hoff.symm.trans hscreen) Bool.false_ne_true
  · exact hwake
  · exact absurd (hie.symm.trans hon) Bool.false_ne_true

theorem bulkToIP_of_unmasked (hscreen : s.screenEnabled = true) (hie : s.ie = true) :
    bulkToIP s =
      { deliverInterrupt (idlWake s) with
        frameState := .interruptPreliminary
        budget := ipBudget } := by
  rcases bulkToIP_cases s with ⟨hoff, -⟩ | ⟨-, hmasked, -⟩ | ⟨-, -, hdelivered⟩
  · exact absurd (hoff.symm.trans hscreen) Bool.false_ne_true
  · exact absurd (hmasked.symm.trans hie) Bool.false_ne_true
  · exact hdelivered

theorem idlWake_withBudget (s : State) (b : Int) :
    idlWake { s with budget := b } = { idlWake s with budget := b } := by
  rw [idlWake_eq, idlWake_eq]
  rfl

/-- The end of Bulk does not look at the budget it ends on (D17). -/
theorem bulkToIP_withBudget (s : State) (b : Int) :
    bulkToIP { s with budget := b } = bulkToIP s := by
  rcases bulkToIP_cases s with ⟨hoff, h⟩ | ⟨hscreen, hie, h⟩ | ⟨hscreen, hie, h⟩
  · rw [h, bulkToIP_of_screenOff (by exact hoff)]
  · rw [h, bulkToIP_of_masked (by exact hscreen) (by exact hie), idlWake_withBudget]
  · rw [h, bulkToIP_of_unmasked (by exact hscreen) (by exact hie), idlWake_withBudget]
    rfl

theorem frameTick_of_bulk (hf : s.frameState = .bulk) (h : s.budget < 2) :
    frameTick s = bulkToIP s := by
  rcases frameTick_cases s with ⟨hhigh, -⟩ | ⟨-, -, hend⟩ | ⟨-, hf', -⟩
  · exact absurd hhigh (Int.not_le.mpr h)
  · rw [hend, bulkToIP_withBudget]
  · exact absurd (hf.symm.trans hf') nofun

theorem frameTick_of_interruptPreliminary (hf : s.frameState = .interruptPreliminary)
    (h : s.budget < 2) : frameTick s = ipToBulk { s with budget := s.budget - 2 } := by
  rcases frameTick_cases s with ⟨hhigh, -⟩ | ⟨-, hf', -⟩ | ⟨-, -, hend⟩
  · exact absurd hhigh (Int.not_le.mpr h)
  · exact absurd (hf.symm.trans hf') nofun
  · exact hend

theorem frameTick_ends_phase (h : s.budget < 2) :
    (frameTick s).frameState = s.frameState.other ∧
      (frameTick s).budget = phaseBudget s.cfg s.frameState.other := by
  cases hf : s.frameState with
  | bulk => rw [frameTick_of_bulk hf h]; exact ⟨rfl, rfl⟩
  | interruptPreliminary =>
    rw [frameTick_of_interruptPreliminary hf h, ipToBulk_eq]
    exact ⟨rfl, rfl⟩

/-- The bookkeeping of an advance works on the phase and the budget the advance began with: no
execute phase touches the frame machine. -/
theorem step_eq_frameTick (h : step s = .next t) :
    ∃ u, t = frameTick u ∧ u.cfg = s.cfg ∧ u.frameState = s.frameState ∧ u.budget = s.budget := by
  obtain ⟨-, u, hu, rfl⟩ := step_next h
  obtain ⟨hcfg, hframe, hbudget, -⟩ := exec_keeps _ hu
  exact ⟨u, rfl, hcfg, hframe, hbudget⟩

theorem step_stays_in_phase (h : step s = .next t) (hb : 2 ≤ s.budget) :
    t.frameState = s.frameState ∧ t.budget = s.budget - 2 := by
  obtain ⟨u, rfl, -, hframe, hbudget⟩ := step_eq_frameTick h
  rw [frameTick_of_not_low (hbudget.symm ▸ hb)]
  exact ⟨hframe, congrArg (· - 2) hbudget⟩

theorem step_ends_phase (h : step s = .next t) (hb : s.budget < 2) :
    t.frameState = s.frameState.other ∧ t.budget = phaseBudget s.cfg s.frameState.other := by
  obtain ⟨u, rfl, hcfg, hframe, hbudget⟩ := step_eq_frameTick h
  rw [← hframe, ← hcfg]
  exact frameTick_ends_phase (hbudget.symm ▸ hb)

/-- While the budget lasts, each advance of a run takes 2 units off it. -/
theorem run_stays_in_phase (k : Nat) {s : State} (hwf : configWf s.cfg)
    (hb : 2 * (k : Int) ≤ s.budget) :
    ∃ t, core.run k s = .next t ∧ t.frameState = s.frameState ∧ t.budget = s.budget - 2 * k := by
  induction k generalizing s with
  | zero => exact ⟨s, rfl, rfl, by omega⟩
  | succ k ih =>
    obtain ⟨u, hstep⟩ := step_isNext hwf
    obtain ⟨hframe, hbudget⟩ := step_stays_in_phase hstep (by omega)
    obtain ⟨t, hrun, htframe, htbudget⟩ := ih (s := u) (step_cfg hstep ▸ hwf) (by omega)
    exact ⟨t, (core_run_succ k hstep).trans hrun, htframe.trans hframe, by omega⟩

/-- A budget of `2 * n` or `2 * n + 1` lasts for `n` advances, and the next one enters the other
phase. -/
theorem run_ends_phase (n : Nat) {s : State} (hwf : configWf s.cfg)
    (hle : 2 * (n : Int) ≤ s.budget) (hlt : s.budget < 2 * n + 2) :
    ∃ t, core.run (n + 1) s = .next t ∧ t.frameState = s.frameState.other ∧
      t.budget = phaseBudget s.cfg s.frameState.other ∧ t.cfg = s.cfg := by
  induction n generalizing s with
  | zero =>
    obtain ⟨t, hstep⟩ := step_isNext hwf
    obtain ⟨hframe, hbudget⟩ := step_ends_phase hstep (by omega)
    exact ⟨t, core_run_succ 0 hstep, hframe, hbudget, step_cfg hstep⟩
  | succ n ih =>
    obtain ⟨u, hstep⟩ := step_isNext hwf
    have hcfg : u.cfg = s.cfg := step_cfg hstep
    obtain ⟨hframe, hbudget⟩ := step_stays_in_phase hstep (by omega)
    obtain ⟨t, hrun, hend⟩ := ih (s := u) (hcfg ▸ hwf) (by omega) (by omega)
    rw [hframe, hcfg] at hend
    exact ⟨t, (core_run_succ (n + 1) hstep).trans hrun, hend⟩

end

/-- Settles O49: a phase of budget B is one run of floor(B / 2) + 1 advances; a frame is two of
them, the second with the budget 29. -/
theorem aPhaseLastsHalfItsBudgetPlusOne : Obligations.APhaseLastsHalfItsBudgetPlusOne := by
  intro s hwf hnonneg
  refine ⟨fun k hk => run_stays_in_phase k hwf hk, ?ends, fun hbulk hfull => ?frame⟩
  case ends =>
    obtain ⟨t, hrun, hframe, hbudget, -⟩ :=
      run_ends_phase (s.budget.toNat / 2) hwf (by omega) (by omega)
    refine ⟨t, hrun, hframe ▸ s.frameState.other_ne, ?_⟩
    rw [hbudget]
    cases s.frameState <;> rfl
  case frame =>
    obtain ⟨t, hrun, hframe, hbudget, hcfg⟩ :=
      run_ends_phase (s.cfg.bulkBudget / 2) hwf (by omega) (by omega)
    rw [hbulk] at hframe hbudget
    have hbudget : t.budget = 29 := hbudget
    obtain ⟨u, hrun', hframe', hbudget', -⟩ :=
      run_ends_phase 14 (s := t) (hcfg ▸ hwf) (by omega) (by omega)
    rw [hframe] at hframe' hbudget'
    rw [hcfg] at hbudget'
    exact ⟨t, u, hrun, hframe, hbudget, hrun', hframe', hbudget'⟩

/-- Settles O48: an advance is one count of the budget, or the end of the phase. -/
theorem advanceCostsTwoUnitsAndReloads : Obligations.AdvanceCostsTwoUnitsAndReloads := by
  refine ⟨fun s => frameTick_of_not_low, fun s t hstep => ⟨fun h => ?count, fun h hf => ?bulk,
    fun h hf => ?preliminary⟩⟩
  case count => exact step_stays_in_phase hstep (by omega)
  case bulk =>
    have hend := step_ends_phase hstep (by omega)
    rw [hf] at hend
    exact hend
  case preliminary =>
    have hend := step_ends_phase hstep (by omega)
    rw [hf] at hend
    exact hend

end Sys2Proof.Machine
end

section
namespace Sys2Proof.Machine

/-! ### Loading bytes (spec/60_exceptions.md R347) -/

/-- The address of the byte after the first, as the rest of the load counts it. -/
theorem loadAddress_succ (a : Word) (j : Nat) :
    a + BitVec.ofNat 16 (j + 1) = a + 1 + BitVec.ofNat 16 j := by
  rw [BitVec.add_assoc, Nat.add_comm, BitVec.ofNat_add]
  rfl

/-- An address that shares a RAM byte with no byte of the load reads as before. -/
theorem readByte_loadBytes_other (data : List Byte) (s : State) (a b : Word)
    (h : ∀ j < data.length, ∀ k, place s.cfg (a + BitVec.ofNat 16 j) = .ram k →
      place s.cfg b ≠ .ram k) :
    readByte (loadBytes s a data) b = readByte s b := by
  induction data generalizing s a with
  | nil => rfl
  | cons v rest ih =>
    have hfirst : ∀ k, place s.cfg a = .ram k → place s.cfg b ≠ .ram k := by
      simpa using h 0 (Nat.zero_lt_succ _)
    have hrest : readByte (loadBytes (writeByte s a v) (a + 1) rest) b =
        readByte (writeByte s a v) b := by
      refine ih _ _ fun j hj => ?_
      rw [writeByte_cfg, ← loadAddress_succ]
      exact h (j + 1) (Nat.succ_lt_succ hj)
    exact hrest.trans (readByte_writeByte_other hfirst v)

/-- A RAM byte reads as the last byte the load wrote to it. -/
theorem readByte_loadBytes_last (data : List Byte) (s : State) (a b : Word) {k j : Nat}
    (hj : j < data.length) (ha : place s.cfg (a + BitVec.ofNat 16 j) = .ram k)
    (hlast : ∀ l, j < l → l < data.length → place s.cfg (a + BitVec.ofNat 16 l) ≠ .ram k)
    (hb : place s.cfg b = .ram k) : readByte (loadBytes s a data) b = data[j] := by
  induction data generalizing s a j with
  | nil => exact absurd hj (Nat.not_lt_zero j)
  | cons v rest ih =>
    cases j with
    | zero =>
      have hrest : readByte (loadBytes (writeByte s a v) (a + 1) rest) b =
          readByte (writeByte s a v) b := by
        refine readByte_loadBytes_other _ _ _ _ fun l hl i hi hbi => ?_
        rw [writeByte_cfg] at hi hbi
        rw [← loadAddress_succ] at hi
        refine hlast (l + 1) (Nat.succ_pos l) (Nat.succ_lt_succ hl) ?_
        rw [hi, ← hbi, hb]
      have hfirst : place s.cfg a = .ram k := by simpa using ha
      exact hrest.trans (readByte_writeByte_samePlace hfirst hb v)
    | succ j =>
      rw [loadAddress_succ] at ha
      refine ih (writeByte s a v) (a + 1) (Nat.lt_of_succ_lt_succ hj) (by rwa [writeByte_cfg])
        (fun l hjl hl => ?_) (by rwa [writeByte_cfg])
      rw [writeByte_cfg, ← loadAddress_succ]
      exact hlast (l + 1) (Nat.succ_lt_succ hjl) (Nat.succ_lt_succ hl)

/-- Settles O19: by induction on the bytes loaded, each one a write. -/
theorem loadedBytesReadBack : Obligations.LoadedBytesReadBack := by
  intro s a data
  refine ⟨fun j hj k ha hlast b hb => ?last, readByte_loadBytes_other data s a, ?frame⟩
  case last => exact readByte_loadBytes_last data s a b hj ha hlast hb
  case frame => rw [loadBytes_eq]

/-! ### The commands of a whole advance (spec/60_exceptions.md R340, R342, R345) -/

/-- The record grew by commands other than set-keypad-group. -/
def GrowsWithoutKeypadGroup (old log : List HostEvent) : Prop :=
  ∃ new : List HostEvent, log = new ++ old ∧ ∀ e ∈ new, e.command ≠ .setKeypadGroup

namespace GrowsWithoutKeypadGroup
variable {s : State} {l m n : List HostEvent}

theorem refl (l : List HostEvent) : GrowsWithoutKeypadGroup l l :=
  ⟨[], rfl, List.forall_mem_nil _⟩

theorem cons {e : HostEvent} (he : e.command ≠ .setKeypadGroup) (l : List HostEvent) :
    GrowsWithoutKeypadGroup l (e :: l) :=
  ⟨[e], rfl, List.forall_mem_singleton.mpr he⟩

theorem trans (hlm : GrowsWithoutKeypadGroup l m) (hmn : GrowsWithoutKeypadGroup m n) :
    GrowsWithoutKeypadGroup l n := by
  obtain ⟨new, rfl, hnew⟩ := hlm
  obtain ⟨newer, rfl, hnewer⟩ := hmn
  exact ⟨newer ++ new, (List.append_assoc ..).symm, List.forall_mem_append.mpr ⟨hnewer, hnew⟩⟩

/-- None of the commands an execute phase may issue is set-keypad-group. -/
theorem of_issuesAtMostOne (h : IssuesAtMostOne s l) : GrowsWithoutKeypadGroup s.hostLog l := by
  rcases h with rfl | ⟨e, he, rfl⟩
  · exact refl _
  · refine cons ?_ _
    cases he <;> exact nofun

/-- The end of InterruptPreliminary issues a frame sync and key polls (R323, R324). -/
theorem ipToBulk (s : State) : GrowsWithoutKeypadGroup s.hostLog (ipToBulk s).hostLog := by
  rw [ipToBulk_hostLog]
  refine (cons (e := ⟨.frameSync, 0⟩) nofun s.hostLog).trans ⟨_, rfl, fun e he => ?_⟩
  obtain ⟨k, -, rfl⟩ := List.mem_map.mp (List.mem_reverse.mp he)
  exact nofun

theorem frameTick (s : State) : GrowsWithoutKeypadGroup s.hostLog (frameTick s).hostLog := by
  rcases frameTick_cases s with ⟨-, h⟩ | ⟨-, -, h⟩ | ⟨-, -, h⟩ <;> rw [h]
  · exact refl _
  · rw [bulkToIP_hostLog]
    exact refl _
  · exact ipToBulk _

end GrowsWithoutKeypadGroup

/-- Settles O47: the execute phase issues at most one command, of those named, and the bookkeeping
frame syncs and key polls. -/
theorem setKeypadGroupIsNeverIssued : Obligations.SetKeypadGroupIsNeverIssued := by
  intro s t
  refine ⟨fun hstep => ?advance, fun a data => ?load, fun draws buffer hreset => ?reset⟩
  case advance =>
    obtain ⟨-, u, hu, rfl⟩ := step_next hstep
    have hexec : IssuesAtMostOne (afterFetch s) u.hostLog := exec_issues (decodeOp_wellFormed ..) hu
    exact (GrowsWithoutKeypadGroup.of_issuesAtMostOne hexec).trans (.frameTick u)
  case load => rw [loadBytes_eq]
  case reset =>
    obtain ⟨-, rfl⟩ := resetOp_next hreset
    cases buffer <;> rfl

end Sys2Proof.Machine
end

section
namespace Sys2Proof.Machine

/-! ### Delivery of the interrupt and return from it (spec/60_exceptions.md R314 to R319) -/

theorem pc_deliverInterrupt (s : State) : pc (deliverInterrupt s) = getReg s 1 := rfl

/-- Settles O50: the four fields that delivery writes; R[P] is then R[1]. -/
theorem interruptDeliverySavesXAndPInT : Obligations.InterruptDeliverySavesXAndPInT := fun s =>
  ⟨deliverInterrupt s, rfl, packXP_toNat s.x s.p, rfl, rfl, rfl, pc_deliverInterrupt s, rfl,
    readByte_congr rfl rfl⟩

/-- The two halves of a saved X : P (R28). -/
theorem groupOf_packXP (x p : RegNum) : groupOf (packXP x p) = x := groupOf_opByte x p

theorem fieldOf_packXP (x p : RegNum) : fieldOf (packXP x p) = p := fieldOf_opByte x p

/-- What SAV leaves when it is the first instruction of the handler: T at R[2] (R255, R317). -/
def handlerSaved (s : State) : State :=
  writeByte (deliverInterrupt s) (getReg s 2) (packXP s.x s.p)

theorem exec_sav_deliverInterrupt (s : State) :
    exec .sav (deliverInterrupt s) = .next (handlerSaved s) := rfl

theorem getReg_handlerSaved (s : State) (n : RegNum) :
    getReg (handlerSaved s) n = getReg s n :=
  getReg_congr (s := s) (writeByte_regs (deliverInterrupt s) ..) n

theorem handlerSaved_x (s : State) : (handlerSaved s).x = 2 := writeByte_x ..

/-- With R[2] in RAM the saved byte is the one RET reads. -/
theorem readByte_handlerSaved {s : State} {k : Nat} (h : place s.cfg (getReg s 2) = .ram k) :
    readByte (handlerSaved s) (getReg (handlerSaved s) (handlerSaved s).x) = packXP s.x s.p := by
  rw [handlerSaved_x, getReg_handlerSaved]
  exact readByte_writeByte_samePlace (s := deliverInterrupt s) h h _

/-- Settles O42: RET splits the byte X : P that delivery packed and SAV stored. -/
theorem returnUndoesTheInterrupt : Obligations.ReturnUndoesTheInterrupt := by
  intro s k hie hram
  have hbyte := readByte_handlerSaved hram
  have hx := handlerSaved_x s
  refine ⟨handlerSaved s, returnWith (handlerSaved s) true, exec_sav_deliverInterrupt s, rfl,
    ?x, ?p, hie.symm, ?d, ?df, ?counted, fun n hn => ?kept⟩
  case x => exact (congrArg groupOf hbyte).trans (groupOf_packXP ..)
  case p => exact (congrArg fieldOf hbyte).trans (fieldOf_packXP ..)
  case d => exact writeByte_d ..
  case df => exact writeByte_df ..
  case counted =>
    obtain ⟨-, -, -, hcount, -⟩ := returnWith_frame (handlerSaved s) true
    rwa [hx, getReg_handlerSaved] at hcount
  case kept =>
    obtain ⟨-, -, -, -, hkept, -⟩ := returnWith_frame (handlerSaved s) true
    exact (hkept n (hx.symm ▸ hn)).trans (getReg_handlerSaved s n)

/-- The wake passes an IDL byte at R[P] and touches nothing else (R315). -/
theorem idlWake_continuesAt (s : State) :
    ContinuesAt s (idlWake s) (if readByte s (pc s) = 0x00 then pc s + 1 else pc s) := by
  rw [idlWake_eq]
  exact setPc_continuesAt s _

/-- Settles O51: the three cases of the end of Bulk, after the wake. -/
theorem bulkEndsWithWakeAndInterrupt : Obligations.BulkEndsWithWakeAndInterrupt := by
  intro s hf hlow
  rw [frameTick_of_bulk hf hlow]
  exact ⟨bulkToIP_of_screenOff, fun hscreen => ⟨idlWake s, idlWake_continuesAt s,
    bulkToIP_of_masked hscreen, bulkToIP_of_unmasked hscreen⟩⟩

/-- The bookkeeping leaves T, P, X and IE alone, unless it delivers an interrupt, on all the
conditions of R316. -/
theorem frameTick_keeps_or_delivers (s : State) :
    ((frameTick s).t = s.t ∧ (frameTick s).p = s.p ∧ (frameTick s).x = s.x ∧
      (frameTick s).ie = s.ie) ∨
    (s.frameState = .bulk ∧ s.budget < 2 ∧ s.screenEnabled = true ∧ s.ie = true) := by
  rcases frameTick_cases s with ⟨-, h⟩ | ⟨hlow, hf, -⟩ | ⟨-, -, h⟩
  · exact .inl (by rw [h]; exact ⟨rfl, rfl, rfl, rfl⟩)
  · rw [frameTick_of_bulk hf hlow]
    rcases bulkToIP_cases s with ⟨-, h⟩ | ⟨-, -, h⟩ | ⟨hscreen, hie, -⟩
    · exact .inl (by rw [h]; exact ⟨rfl, rfl, rfl, rfl⟩)
    · exact .inl (by rw [h, idlWake_eq]; exact ⟨rfl, rfl, rfl, rfl⟩)
    · exact .inr ⟨hf, hlow, hscreen, hie⟩
  · exact .inl (by rw [h, ipToBulk_eq]; exact ⟨rfl, rfl, rfl, rfl⟩)

/-- Settles O52: a change of T, P, X or IE excludes every case but the delivery. -/
theorem interruptOnlyAtTheEndOfBulk : Obligations.InterruptOnlyAtTheEndOfBulk := by
  intro s hchanged
  rcases frameTick_keeps_or_delivers s with ⟨ht, hp, hx, hie⟩ | hdelivery
  · rcases hchanged with h | h | h | h
    · exact absurd ht h
    · exact absurd hp h
    · exact absurd hx h
    · exact absurd hie h
  · exact hdelivery

end Sys2Proof.Machine
end

section
namespace Sys2Proof.Machine

/-! ### The screen capture (spec/60_exceptions.md R322) -/

theorem screenPageOffset_eq (c : Config) :
    screenPageOffset c = if c.variant = .c then c.pageOffsetC else 0 := by
  unfold screenPageOffset
  cases c.variant <;> rfl

theorem screenPageOffset_toNat (c : Config) :
    (screenPageOffset c).toNat = if c.variant = .c then c.pageOffsetC.toNat else 0 := by
  rw [screenPageOffset_eq, apply_ite BitVec.toNat]
  rfl

theorem captureScreen_base_toNat (s : State) :
    (captureScreen s).screenBase.toNat =
      ((getReg s 0).toNat / 256 +
        (if s.cfg.variant = .c then s.cfg.pageOffsetC.toNat else 0)) % 256 * 256 := by
  have hbase : (captureScreen s).screenBase =
      joinBytes (hiByte (getReg s 0) + screenPageOffset s.cfg) 0x00 := rfl
  rw [hbase, joinBytes_toNat, BitVec.toNat_add, hiByte_toNat, screenPageOffset_toNat]
  exact Nat.add_zero _

/-- What the end of InterruptPreliminary leaves, with the fields it writes last named by the result
(R321). -/
theorem frameTick_capture {s : State} (hf : s.frameState = .interruptPreliminary)
    (hlow : s.budget < 2) :
    frameTick s = { captureScreen s with
      frameState := .bulk
      budget := s.cfg.bulkBudget
      curKey := (frameTick s).curKey
      keyLatch := (frameTick s).keyLatch
      hostLog := (frameTick s).hostLog
      hostAnswers := (frameTick s).hostAnswers } := by
  rw [frameTick_of_interruptPreliminary hf hlow]
  exact ipToBulk_eq _

/-- Settles O53: the capture is of the state before the transition, whose other steps write only
the keyboard and the exchange with the Hardware Host. -/
theorem theScreenIsCapturedFromRegisterZero : Obligations.TheScreenIsCapturedFromRegisterZero := by
  intro s hf hlow
  have hcapture := frameTick_capture hf hlow
  have hbase : (frameTick s).screenBase = (captureScreen s).screenBase := by
    rw [hcapture]
  have hscroll : (frameTick s).scroll = loByte (getReg s 0) := by
    rw [hcapture]
    rfl
  obtain ⟨hcfg, hmem, -⟩ := frameTick_keeps s
  refine ⟨frameTick s, rfl, ?base, ?scroll, screenPointer_toNat _, readByte_congr hcfg hmem, ?frame⟩
  case base => rw [hbase, captureScreen_base_toNat]
  case scroll => rw [hscroll, loByte_toNat]
  case frame =>
    rw [hbase, hscroll]
    exact hcapture

/-! ### The commands and the key sample of the transition (spec/60_exceptions.md R323 to R325) -/

/-- The sixteen polls of the transition and the state after them (R324). -/
def sampledKeys (s : State) : List Bool × State :=
  pollKeys (hostCommand (captureScreen s) .frameSync 0) allKeys

/-- The end of InterruptPreliminary is the key edge of the sample (R321). -/
theorem ipToBulk_eq_keyEdge (s : State) :
    ipToBulk s = { keyEdge (sampledKeys s).2 (pressedKey (sampledKeys s).1) with
      frameState := .bulk
      budget := s.cfg.bulkBudget } := rfl

theorem ipToBulk_curKey (s : State) : (ipToBulk s).curKey = pressedKey (sampledKeys s).1 := by
  rw [ipToBulk_eq_keyEdge, keyEdge_eq]

theorem ipToBulk_hostAnswers (s : State) :
    (ipToBulk s).hostAnswers = (sampledKeys s).2.hostAnswers := by
  rw [ipToBulk_eq_keyEdge, keyEdge_eq]

theorem sampledKeys_answers {s : State} {answers rest : List Bool} (hlength : answers.length = 16)
    (h : s.hostAnswers = answers ++ rest) :
    (sampledKeys s).1 = answers ∧ (sampledKeys s).2.hostAnswers = rest :=
  pollKeys_answers _ allKeys answers rest hlength h

theorem length_allKeys : allKeys.length = 16 := rfl

/-- The keys stand in the order of their indices. -/
theorem getElem_allKeys {j : Nat} (h : j < allKeys.length) : allKeys[j] = BitVec.ofNat 4 j := by
  have hall : allKeys = (List.range 16).map (BitVec.ofNat 4) := by decide
  simp [hall]

/-- The poll parameters are the indices 0 to 15 (R324). -/
theorem map_keyPoll_allKeys :
    allKeys.map (fun k => HostEvent.mk .readKeyboard (k.zeroExtend 8)) =
      (List.range 16).map (fun k => HostEvent.mk .readKeyboard (BitVec.ofNat 8 k)) := by
  decide

/-- Settles O54: the record is kept newest first, so its reverse is the order of issue. -/
theorem theTransitionSyncsThenPollsSixteenKeys :
    Obligations.TheTransitionSyncsThenPollsSixteenKeys := by
  intro s hf hlow
  rw [frameTick_of_interruptPreliminary hf hlow, ipToBulk_hostLog, map_keyPoll_allKeys,
    List.reverse_append, List.reverse_reverse, List.reverse_cons, List.append_assoc]
  rfl

section
variable {answers : List Bool}

/-- No key answers: the search finds none (R325). -/
theorem pressedKey_eq_none (hnone : ∀ j < 16, answers[j]? = some false) :
    pressedKey answers = none := by
  rw [pressedKey, Option.map_eq_none_iff, List.find?_eq_none]
  intro pair hpair
  obtain ⟨j, hj, rfl⟩ := List.mem_iff_getElem.mp hpair
  rw [List.length_zip, length_allKeys] at hj
  have hanswer := hnone j (by omega)
  rw [List.getElem?_eq_getElem (by omega)] at hanswer
  simpa using hanswer

/-- The search stops at the first key that answers (R325). -/
theorem pressedKey_eq_some {k : Key} (hpressed : answers[k.toNat]? = some true)
    (hbelow : ∀ j < k.toNat, answers[j]? = some false) : pressedKey answers = some k := by
  obtain ⟨hk, hanswer⟩ := List.getElem?_eq_some_iff.mp hpressed
  have hk16 : k.toNat < allKeys.length := k.isLt
  have hfind : (allKeys.zip answers).find? (fun ka => ka.2) = some (k, true) := by
    refine List.find?_eq_some_iff_getElem.mpr ⟨rfl, k.toNat, ?_, ?_, fun j hj => ?_⟩
    · rw [List.length_zip]
      omega
    · rw [List.getElem_zip, hanswer, getElem_allKeys, BitVec.ofNat_toNat, BitVec.setWidth_eq]
    · obtain ⟨hlt, hfalse⟩ := List.getElem?_eq_some_iff.mp (hbelow j hj)
      simp [hfalse]
  rw [pressedKey, hfind]
  rfl

end

/-- Settles O55: the answers of the sample are the sixteen fixed ones, in the order of the keys. -/
theorem theLowestPressedKeyIsSampled : Obligations.TheLowestPressedKeyIsSampled := by
  intro s answers rest hf hlow hlength hanswers
  obtain ⟨hsampled, hrest⟩ :=
    sampledKeys_answers (s := { s with budget := s.budget - 2 }) hlength hanswers
  rw [frameTick_of_interruptPreliminary hf hlow, ipToBulk_curKey, ipToBulk_hostAnswers, hsampled]
  exact ⟨hrest, pressedKey_eq_none, fun k => pressedKey_eq_some⟩

/-! ### The key edge (spec/60_exceptions.md R326, R327) -/

/-- The variant with the accumulator (R7, decision D14). -/
theorem latchKind_eq_shift_iff (v : Variant) : latchKind v = .shift ↔ v = .b := by
  cases v <;> decide

/-- A key enters the accumulator at the low nibble (R326, decision D13). -/
theorem shiftIn_toNat (latch : Byte) (key : Key) :
    ((latch <<< 4) ||| key.zeroExtend 8).toNat = latch.toNat * 16 % 256 + key.toNat := by
  have hkey := key.isLt
  have hwiden : (key.zeroExtend 8).toNat = key.toNat := by
    simp only [BitVec.truncate_eq_setWidth, BitVec.toNat_setWidth]
    omega
  have hshift : latch.toNat <<< 4 % 2 ^ 8 = (latch.toNat % 16) <<< 4 := by
    simp only [Nat.shiftLeft_eq]
    omega
  rw [BitVec.toNat_or, BitVec.toNat_shiftLeft, hshift, hwiden,
    ← Nat.shiftLeft_add_eq_or_of_lt key.isLt, Nat.shiftLeft_eq]
  omega

section
variable {s t : State} {k : Option Key}

/-- What an edge does to the latch depends on the variant, the latch and the last key alone. -/
theorem keyEdge_keyLatch_congr (hcfg : t.cfg = s.cfg) (hkey : t.curKey = s.curKey)
    (hlatch : t.keyLatch = s.keyLatch) (k : Option Key) :
    (keyEdge t k).keyLatch = (keyEdge s k).keyLatch := by
  unfold keyEdge
  rw [hcfg, hkey, hlatch]
  split
  · exact hlatch
  · split <;> rfl

/-- A held key and a release shift nothing (R326). -/
theorem keyEdge_keyLatch_of_no_press (h : k = s.curKey ∨ k = none) :
    (keyEdge s k).keyLatch = s.keyLatch := by
  rcases keyEdge_cases s k with ⟨-, he⟩ | ⟨-, -, he⟩ | ⟨key, hne, -, hsome, -⟩
  · rw [he]
  · rw [he]
  · rcases h with hheld | hnone
    · exact absurd hheld hne
    · exact absurd (hnone.symm.trans hsome) nofun

/-- A new key of Variant B is shifted in (R326). -/
theorem keyEdge_keyLatch_of_press {key : Key} (hv : s.cfg.variant = .b)
    (hnew : s.curKey ≠ some key) :
    (keyEdge s (some key)).keyLatch = (s.keyLatch <<< 4) ||| key.zeroExtend 8 := by
  rcases keyEdge_cases s (some key) with ⟨hheld, -⟩ | ⟨-, hselect | hnone, -⟩ |
    ⟨key', -, -, hkey, he⟩
  · exact absurd hheld.symm hnew
  · exact absurd hv (variant_ne_b_of_select hselect)
  · exact absurd hnone nofun
  · obtain rfl : key = key' := Option.some.inj hkey
    rw [he]

end

/-- Up to the key edge the transition touches neither the latch nor the last key. -/
theorem sampledKeys_keeps (s : State) :
    (sampledKeys s).2.cfg = s.cfg ∧ (sampledKeys s).2.curKey = s.curKey ∧
      (sampledKeys s).2.keyLatch = s.keyLatch := by
  unfold sampledKeys
  rw [pollKeys_eq]
  exact ⟨rfl, rfl, rfl⟩

theorem ipToBulk_keyLatch (s : State) :
    (ipToBulk s).keyLatch = (keyEdge s (ipToBulk s).curKey).keyLatch := by
  obtain ⟨hcfg, hkey, hlatch⟩ := sampledKeys_keeps s
  rw [ipToBulk_curKey, ← keyEdge_keyLatch_congr hcfg hkey hlatch]
  rfl

/-- Settles O56: the transition's edge is that of its sample, and an edge shifts a key in exactly
when the key is new and the latch an accumulator. -/
theorem aKeyEdgeUpdatesTheLatch : Obligations.AKeyEdgeUpdatesTheLatch := by
  refine ⟨fun s hf hlow => ?transition, fun s k => ⟨?sample, keyEdge_eq s k, fun hv => ?select,
    keyEdge_keyLatch_of_no_press, fun key hv hk hnew => ?press⟩⟩
  case transition =>
    rw [frameTick_of_interruptPreliminary hf hlow, ipToBulk_keyLatch]
    exact keyEdge_keyLatch_congr (s := s) (t := { s with budget := s.budget - 2 }) rfl rfl rfl _
  case sample => rw [keyEdge_eq]
  case select => exact keyEdge_keyLatch_of_select ((latchKind_eq_select_iff _).mpr hv) k
  case press => rw [hk, keyEdge_keyLatch_of_press hv hnew, shiftIn_toNat]

end Sys2Proof.Machine
end
